-- ==== Sys2Proof/Word.lean ====
section
/-! DEFINITION. Widths of the values WAKE-FRAMER names (spec/00_scope.md R7, R10). -/

namespace Sys2Proof

/-- An unsigned 8-bit value (00 R10). -/
abbrev Byte := BitVec 8

/-- The operation word `OPW16` (30 R80). -/
abbrev OpWord := BitVec 16

/-- `DEC_CNT` and `DEC_EXP`: `CNT_W` = 9 bits (00 R7, 10 R24). -/
abbrev Count := BitVec 9

/-- `ACC_ADDR`: 7 bits (10 R21). -/
abbrev Addr7 := BitVec 7

end Sys2Proof
end

