-- ==== Sys2Proof/Config.lean ====
section
/-! DEFINITION. The parameters of spec/00_scope.md R7, and the free values (draws) the spec leaves to the transport. -/

namespace Sys2Proof

/-- The OPEN type `Timeout` of 00 R7: a token the block only hands on to the transport (60 R235).
DESIGN CHOICE, safe (notes/assumptions/13.md): nothing in the model computes with the token. -/
structure Timeout where
  token : Nat
  deriving DecidableEq, Repr, Inhabited

/-- The transport's answer to one `TxWrite` (20 R52): `ok`, or `err` with the number of bytes of the
frame that reached TX before the failure (the drawn prefix; any number at least the frame's length is the whole). -/
inductive TxAnswer where
  | ok
  | err (sent : Nat)
  deriving DecidableEq, Repr, Inhabited

/-- `BYTE_COUNT_KIND` (00 R7, 44 R195). -/
inductive ByteCountKind where
  | raw
  | logical
  deriving DecidableEq, Repr, Inhabited

/-- Which function the parameter `CK` is (00 R7, 41 R120). State is plain data and cannot hold a function, so an
instantiation names its function: `uninterpreted` is one of which nothing is known (`Config.freeChecksum`), `xor8` is the
test checksum of 41 R125. DESIGN CHOICE, safe (notes/assumptions/4.md): a claim over every instantiation holds of the
uninterpreted one, that is of any total deterministic function. -/
inductive ChecksumKind where
  | uninterpreted
  | xor8
  deriving DecidableEq, Repr, Inhabited

/-- The well-formedness of the four protocol constants: conditions (a) to (d) of 30 R76, in that order. -/
def constantsWellFormed (fend fesc tfend tfesc : Byte) : Bool :=
  fesc != fend && tfend != tfesc && tfend != fend && tfesc != fend

/-- One instantiation of the parameters of 00 R7 that are not fixed numbers. An instantiation that is not well-formed
cannot be built: its `wf` would have to prove `false = true` (30 R76 "A model shall refuse an instantiation that is not
well-formed"; DEDUCED, safe, notes/assumptions/3.md). The default values only show that the type is inhabited;
nothing depends on them. `feedSharesRx` is the platform's wiring, not a parameter of R7: whether the bytes the host FEEDs
come from the transport that RECEIVE reads (70 R253 (5), R262(b); DESIGN CHOICE, safe, notes/assumptions/11.md). -/
structure Params where
  fend : Byte := 0
  fesc : Byte := 1
  tfend : Byte := 2
  tfesc : Byte := 3
  ck : ChecksumKind := .uninterpreted
  addrModeReset : Bool := false
  byteCountKind : ByteCountKind := .raw
  feedSharesRx : Bool := false
  wf : constantsWellFormed fend fesc tfend tfesc = true := by decide
  deriving DecidableEq, Repr, Inhabited

/-- The check that refuses an ill-formed instantiation (30 R76): the instantiation with these constants, or none. -/
def Params.build? (fend fesc tfend tfesc : Byte) (ck : ChecksumKind) (addrModeReset : Bool)
    (byteCountKind : ByteCountKind) (feedSharesRx : Bool) : Option Params :=
  if h : constantsWellFormed fend fesc tfend tfesc = true then
    some { fend, fesc, tfend, tfesc, ck, addrModeReset, byteCountKind, feedSharesRx, wf := h }
  else none

/-- The instantiation a machine is reset with: every parameter OPEN (00 R7, R8). FREE VALUE, safe
(notes/assumptions/2.md): no proof can see more of it than that it is well-formed. -/
opaque Config.params : Params

/-- The checksum of an instantiation whose `CK` is uninterpreted (41 R120): total, deterministic, a function of the mode
and the covered list, and nothing else is known of it. FREE VALUE, safe (notes/assumptions/4.md). -/
opaque Config.freeChecksum : Bool → List Byte → Byte

/-- The answer drawn for the `n`-th transport read, given its timeout (20 R51, 93 U13). FREE VALUE, safe for claims about
one run (notes/assumptions/7.md). -/
opaque Config.rxDraw : Timeout → Nat → Option Byte

/-- The answer drawn for the `n`-th transport write (20 R52, 93 U12, U14). FREE VALUE, safe for claims about one run
(notes/assumptions/8.md). -/
opaque Config.txDraw : Nat → TxAnswer

end Sys2Proof
end

