-- ==== Sys2Proof/Syntax.lean ====
section
/-! DEFINITION. The operations of WAKE-FRAMER, one constructor for each row of spec/opcode_table.json, with the operand
records of spec/30_encoding.md R81. -/

namespace Sys2Proof

/-- The packet operand record of ENCODE and CK_COMPUTE (30 R81): `data` may have any length. -/
structure PacketRecord where
  addr : Byte
  cmd : Byte
  n : Byte
  data : List Byte
  deriving DecidableEq, Repr

/-- A packet (00 R13): what a decoder returns and what CK_VERIFY checks. -/
structure Packet where
  addr : Byte
  cmd : Byte
  n : Byte
  data : List Byte
  ck : Byte
  deriving DecidableEq, Repr

/-- The packet without its checksum: what the covered list reads (41 R121). -/
def Packet.body (P : Packet) : PacketRecord :=
  { addr := P.addr, cmd := P.cmd, n := P.n, data := P.data }

/-- The record with a checksum added (30 R81 "CK_VERIFY takes it with `ck: Byte` added"). -/
def PacketRecord.withCk (P : PacketRecord) (ck : Byte) : Packet :=
  { addr := P.addr, cmd := P.cmd, n := P.n, data := P.data, ck := ck }

/-- The operations of 30 R82, in the table's order. -/
inductive Instr where
  /-- FEED (43 R150): consume one raw wire byte. -/
  | feed (b : Byte)
  /-- ENCODE (42 R130): validate a packet, build its frame, write it to TX. -/
  | encode (P : PacketRecord)
  /-- RECEIVE (44 R190): pull one frame from RX. -/
  | receive (t : Timeout)
  /-- SET_MODE (45 R210). -/
  | setMode (m : Bool)
  /-- GET_MODE (45 R212). -/
  | getMode
  /-- DEC_RESET (43 R170). -/
  | decReset
  /-- ESC_ENC (40 R100). -/
  | escEnc (b : Byte)
  /-- ESC_DEC (40 R102). -/
  | escDec (p : Bool) (b : Byte)
  /-- CK_COMPUTE (41 R122). -/
  | ckCompute (m : Bool) (P : PacketRecord)
  /-- CK_VERIFY (41 R124). -/
  | ckVerify (m : Bool) (P : Packet)
  deriving DecidableEq, Repr

/-- The operand record that stands beside an operation word. The spec gives each operation its own operands and no bit
layout for them (30 R81), so one record has room for all of them and each operation reads its own fields.
DESIGN CHOICE, safe (notes/assumptions/15.md). -/
structure Operands where
  addr : Byte := 0
  cmd : Byte := 0
  n : Byte := 0
  data : List Byte := []
  ck : Byte := 0
  t : Timeout := { token := 0 }
  deriving DecidableEq, Repr

/-- One operation as the host issues it: its word and its operand record (30 R80). -/
structure Request where
  word : OpWord
  operands : Operands := {}
  deriving DecidableEq, Repr

end Sys2Proof
end

