-- ==== Sys2Proof/WellFormed.lean ====
section
/-! DEFINITION. Well-formedness: of an operation as syntax, of a packet a decoder may return (spec/00_scope.md R13), and
of a packet given to the encoder (spec/42_encoder.md R131). The protocol constants' own check is
`Sys2Proof.constantsWellFormed` (spec/30_encoding.md R76). -/

namespace Sys2Proof

/-- A packet record the encoder accepts in mode `m`, by the two constraints of 42 R131. -/
def PacketRecord.wellFormed (m : Bool) (P : PacketRecord) : Bool :=
  P.data.length == P.n.toNat && (!m || P.addr.toNat ≤ 0x7F)

/-- A packet as a decoder returns it (00 R13): the length field agrees with the data, and bit 7 of the address is 0. -/
def Packet.wellFormed (P : Packet) : Bool :=
  P.data.length == P.n.toNat && !P.addr.getLsbD 7

/-- Every operation is well-formed as syntax: each operand's type admits exactly the values its field of the operation
word or of the operand record admits (30 R80, R81), and 30 R81 lets a packet record's `data` have any length. -/
def Instr.wellFormed : Instr → Bool
  | .feed _ => true
  | .encode _ => true
  | .receive _ => true
  | .setMode _ => true
  | .getMode => true
  | .decReset => true
  | .escEnc _ => true
  | .escDec _ _ => true
  | .ckCompute _ _ => true
  | .ckVerify _ _ => true

end Sys2Proof
end

