-- ==== Sys2Proof/Decode.lean ====
section
/-! DEFINITION. The operation map of spec/30_encoding.md R82, decoding of an operation word with its operand record
(R80, R81, R83), and the encoder. -/

namespace Sys2Proof

/-- The operations by name, as the rows of the operation map select them (30 R82). -/
inductive Op where
  | feed | encode | receive | setMode | getMode | decReset | escEnc | escDec | ckCompute | ckVerify
  deriving DecidableEq, Repr

/-- One row of the operation map: a word `w` selects it when `w & mask == pattern` (30 R82; the table's `match`). -/
structure OpRow where
  op : Op
  pattern : OpWord
  mask : OpWord
  deriving DecidableEq, Repr

/-- The operation map (30 R82). -/
def opMap : List OpRow :=
  [ { op := .feed,      pattern := 0x1000, mask := 0xFF00 },
    { op := .encode,    pattern := 0x2000, mask := 0xFFFF },
    { op := .receive,   pattern := 0x3000, mask := 0xFFFF },
    { op := .setMode,   pattern := 0x4000, mask := 0xFFFE },
    { op := .getMode,   pattern := 0x5000, mask := 0xFFFF },
    { op := .decReset,  pattern := 0x6000, mask := 0xFFFF },
    { op := .escEnc,    pattern := 0x7000, mask := 0xFF00 },
    { op := .escDec,    pattern := 0x8000, mask := 0xFE00 },
    { op := .ckCompute, pattern := 0x9000, mask := 0xFFFE },
    { op := .ckVerify,  pattern := 0xA000, mask := 0xFFFE } ]

/-- Whether a word selects a row (30 R82). -/
def OpRow.selects (row : OpRow) (w : OpWord) : Bool :=
  w &&& row.mask == row.pattern

/-- The operation a word selects, if any (30 R82). -/
def selectOp (w : OpWord) : Option Op :=
  (opMap.find? (·.selects w)).map (·.op)

/-- Why a word is illegal (30 R83). Both reasons answer the host `Error(IllegalOp)` (60 R224). -/
inductive IllegalWord where
  /-- `op` is 0x0 or 0xB to 0xF: no row of the map. -/
  | noSuchOp
  /-- `op` has a row, but a bit its mask covers differs from its pattern. -/
  | fixedBitsDiffer
  deriving DecidableEq, Repr

/-- The reason for which a word that selects no row is illegal (30 R83). -/
def illegalReason (w : OpWord) : IllegalWord :=
  if opMap.any (fun row => row.pattern >>> 12 == w >>> 12) then .fixedBitsDiffer else .noSuchOp

/-- The operand `b = word[7:0]` (30 R81). -/
def byteField (w : OpWord) : Byte := w.truncate 8

/-- The operand `m = word[0]` (30 R81). -/
def modeField (w : OpWord) : Bool := w.getLsbD 0

/-- The operand `p = word[8]` (30 R81). -/
def pendingField (w : OpWord) : Bool := w.getLsbD 8

/-- The packet operand record (30 R81). -/
def Operands.record (o : Operands) : PacketRecord :=
  { addr := o.addr, cmd := o.cmd, n := o.n, data := o.data }

/-- The operation with its operands assembled (30 R81). -/
def instrOf (op : Op) (w : OpWord) (o : Operands) : Instr :=
  match op with
  | .feed => .feed (byteField w)
  | .encode => .encode o.record
  | .receive => .receive o.t
  | .setMode => .setMode (modeField w)
  | .getMode => .getMode
  | .decReset => .decReset
  | .escEnc => .escEnc (byteField w)
  | .escDec => .escDec (pendingField w) (byteField w)
  | .ckCompute => .ckCompute (modeField w) o.record
  | .ckVerify => .ckVerify (modeField w) (o.record.withCk o.ck)

/-- Decoding, total on every word: the operation, or the reason for which the word is illegal (30 R82, R83). -/
def decode (r : Request) : Except IllegalWord Instr :=
  match selectOp r.word with
  | some op => .ok (instrOf op r.word r.operands)
  | none => .error (illegalReason r.word)

/-- A one-bit operand at bit 0 of a word. -/
def modeBit (m : Bool) : OpWord := if m then 1 else 0

/-- The `p` operand at bit 8 of a word. -/
def pendingBit (p : Bool) : OpWord := if p then 0x100 else 0

/-- A record laid into the operand fields. -/
def PacketRecord.operands (P : PacketRecord) : Operands :=
  { addr := P.addr, cmd := P.cmd, n := P.n, data := P.data }

/-- The word and operand record of an operation: the `Encoding:` line of each operation's rule (30 R82). -/
def encode (i : Instr) : Request :=
  match i with
  | .feed b => { word := 0x1000 ||| b.zeroExtend 16 }
  | .encode P => { word := 0x2000, operands := P.operands }
  | .receive t => { word := 0x3000, operands := { t := t } }
  | .setMode m => { word := 0x4000 ||| modeBit m }
  | .getMode => { word := 0x5000 }
  | .decReset => { word := 0x6000 }
  | .escEnc b => { word := 0x7000 ||| b.zeroExtend 16 }
  | .escDec p b => { word := 0x8000 ||| pendingBit p ||| b.zeroExtend 16 }
  | .ckCompute m P => { word := 0x9000 ||| modeBit m, operands := P.operands }
  | .ckVerify m P => { word := 0xA000 ||| modeBit m, operands := { P.body.operands with ck := P.ck } }

/-- The request whose first `nbits` word bits are those of `w`, every other bit and every operand zero. A word is a value and
has no byte order (DEDUCED, safe, notes/assumptions/6.md). -/
def tableRequest (nbits w : Nat) : Request :=
  { word := BitVec.ofNat 16 (w % 2 ^ nbits) }

/-- The operation the decoder reads from a table word, its operand record all zeros (an empty `data`). -/
def decodeTableWord (nbits w : Nat) : Option Instr :=
  match decode (tableRequest nbits w) with
  | .ok i => some i
  | .error _ => none

end Sys2Proof
end

