-- ==== Sys2Proof/Machine/State.lean ====
section
/-! DEFINITION. The state of one WAKE-FRAMER instance (spec/10_state.md R21), its streams (spec/20_memory.md R50), its
results (spec/60_exceptions.md R220), the reasons a step can stop, and the state after reset (spec/70_reset_and_hazards.md
R250). The machine has no memory, no registers a program can name and no program counter (10 R20, R33; 20 R50). -/

namespace Sys2Proof.Machine

/-- The error kinds of 60 R220. -/
inductive ErrorKind where
  | notStartByte
  | checksumMismatch
  | readFailed
  | invalidLength
  | invalidAddress
  | writeFailed
  | illegalOp
  | badEscape
  deriving DecidableEq, Repr

/-- The results of 60 R220. The successes that carry a value are one constructor for each kind of value. -/
inductive Result where
  /-- `Ok`: ENCODE, SET_MODE, DEC_RESET. -/
  | ok
  /-- `Ok(v)` of GET_MODE. -/
  | okMode (m : Bool)
  /-- `Ok(v)` of ESC_ENC: the wire bytes. -/
  | okBytes (bytes : List Byte)
  /-- `Ok(p', outcome)` of ESC_DEC. -/
  | okEscape (pending : Bool) (x : Option Byte)
  /-- `Ok(v)` of CK_COMPUTE: the checksum. -/
  | okByte (ck : Byte)
  /-- `Ok(v)` of CK_VERIFY. -/
  | okBool (v : Bool)
  /-- `Ok(P, k)` of RECEIVE. -/
  | okPacket (P : Packet) (k : Nat)
  /-- `Incomplete`: FEED, the frame is not finished. -/
  | incomplete
  /-- `Complete(P)`: FEED, the frame is finished and its checksum matches. -/
  | complete (P : Packet)
  /-- `Error(kind)`. -/
  | error (kind : ErrorKind)
  deriving DecidableEq, Repr

/-- What one frame in progress holds: the counters, the pending escape and the packet accumulator. The incremental decoder
keeps one in the state (`DEC_CNT`, `DEC_EXP`, `DEC_ESC`, `ACC_*`, 10 R24 to R28); RECEIVE keeps one for the length of a call
(the local record `T` of 44 R190). One type, because both decoders share one field dispatch (43 R155, 44 R193). -/
structure FrameRec where
  /-- `DEC_CNT` / `T.CNT`. -/
  cnt : Count
  /-- `DEC_EXP` / `T.EXP`. -/
  exp : Count
  /-- `DEC_ESC` / `T.ESC`. -/
  esc : Bool
  /-- `ACC_ADDR` / `T.ADDR`. -/
  addr : Addr7
  /-- `ACC_CMD` / `T.CMD`. -/
  cmd : Byte
  /-- `ACC_LEN` / `T.LEN`. -/
  len : Byte
  /-- `ACC_DATA` / `T.DATA`. -/
  data : List Byte
  /-- `ACC_CK` / `T.CK`. -/
  ck : Byte
  deriving DecidableEq, Repr

/-- The receive stream RX as the block meets it (20 R51, R53): the answers its environment has already fixed for the next
reads, and how many reads have been made. Beyond the fixed answers each answer is the free value `Config.rxDraw`.
MODEL's own fields, DESIGN CHOICE, safe (notes/assumptions/7.md). -/
structure RxStream where
  answers : List (Option Byte)
  reads : Nat
  deriving DecidableEq, Repr

/-- The transmit stream TX: the append-only log of 20 R53, and the answers its environment has already fixed for the next
writes with the count of writes made. Beyond the fixed answers each answer is the free value `Config.txDraw`.
`answers` and `writes` are the MODEL's own fields, DESIGN CHOICE, safe (notes/assumptions/8.md). -/
structure TxStream where
  log : List Byte
  answers : List TxAnswer
  writes : Nat
  deriving DecidableEq, Repr

/-- One instance: the elements of 10 R21, the two streams of 20 R50, and what the model needs around them. -/
structure State where
  /-- The instantiation (00 R7). Configuration carried with the run, never written (70 R254; notes/assumptions/2.md). -/
  params : Params
  /-- `MODE` (10 R22): true is address mode on. -/
  mode : Bool
  /-- `DEC_ACTIVE` (10 R23): false is Idle, true is Receiving. -/
  decActive : Bool
  /-- `DEC_FMODE` (10 R27). -/
  decFmode : Bool
  /-- `DEC_CNT`, `DEC_EXP`, `DEC_ESC` and `ACC_*` (10 R24 to R26, R28). -/
  dec : FrameRec
  /-- `FAULT` (10 R35). -/
  fault : Bool
  /-- RX (20 R51). -/
  rx : RxStream
  /-- TX (20 R52, R53). -/
  tx : TxStream
  /-- Whether a FEED has run since reset (MODEL's own, for the refusal of 70 R262(b); notes/assumptions/11.md). -/
  fedYet : Bool
  /-- Whether a RECEIVE has run since reset (MODEL's own, as above). -/
  receivedYet : Bool
  /-- The operations the host will issue, in order (10 R33, 20 R55; MODEL's own, notes/assumptions/1.md). -/
  pending : List Request
  /-- The results answered since reset, in order (70 R266; MODEL's own, notes/assumptions/12.md). -/
  results : List Result
  deriving DecidableEq, Repr

/-- The faults. -/
inductive Fault where
  /-- `FAULT == 1`: no operation has a step (60 R230). Raised by `step` and by every meaning in such a state. Safe. -/
  | faulted
  deriving DecidableEq, Repr

/-- The refusals. -/
inductive Refusal where
  /-- An instruction that has no meaning yet, by its mnemonic. Raised by no arm of `exec`. Safe. -/
  | notModelled (mnemonic : String)
  /-- FEED and RECEIVE over one transport (70 R262(b) "the model refuses that use"). Raised by FEED after a RECEIVE and by
  RECEIVE after a FEED, where the host FEEDs the bytes of RECEIVE's own transport. Safe. -/
  | sharedTransport
  deriving DecidableEq, Repr

/-- The frame record at reset and at the start of a RECEIVE: the counters 0 and `data` empty, as the spec says (70 R250). The
other four fields, which the spec leaves at any value and no result can show (10 R28), are 0.
DESIGN CHOICE, unsafe (notes/assumptions/5.md, 16.md). -/
def FrameRec.blank : FrameRec :=
  { cnt := 0, exp := 0, esc := false, addr := 0, cmd := 0, len := 0, data := [], ck := 0 }

/-- The state after reset of an instance with these parameters (70 R250), its streams untouched and no operation issued. -/
def State.resetWith (p : Params) : State :=
  { params := p
    mode := p.addrModeReset
    decActive := false
    decFmode := false
    dec := FrameRec.blank
    fault := false
    rx := { answers := [], reads := 0 }
    tx := { log := [], answers := [], writes := 0 }
    fedYet := false
    receivedYet := false
    pending := []
    results := [] }

/-- The machine right after reset (70 R250), every parameter of 00 R7 open. -/
def State.reset : State := State.resetWith Config.params

end Sys2Proof.Machine
end

