-- ==== Sys2Proof/Machine/Ops.lean ====
section
/-! DEFINITION. The named operations over the state: answering a result, the `FAULT` gate and entry to the faulted state
(spec/60_exceptions.md R229, R230), the transport (spec/20_memory.md R51, R52), reset of an instance
(spec/70_reset_and_hazards.md R250), the refusal of R262(b), and the host's next operation. -/

namespace Sys2Proof.Machine

/-- End an operation with a result (00 R11 `return`). -/
def State.answer (s : State) (r : Result) : State :=
  { s with results := s.results ++ [r] }

/-- The gate of every operation: while `FAULT == 1` there is no step (60 R229 (1), R230). -/
def State.ifLive (s : State) (k : Host.Outcome State Fault Refusal) : Host.Outcome State Fault Refusal :=
  if s.fault then .fault .faulted else k

/-- `fault BadEscape` (00 R11, 60 R230): the one exception the block has. `FAULT <- 1`, every other element stays as it is
(43 R163), nothing is answered, and there is no handler and no return (60 R231, R232); what follows is the gate above. -/
def State.enterBadEscape (s : State) : State :=
  { s with fault := true }

/-- An illegal operation word (30 R83, 60 R224): `Error(IllegalOp)`, nothing else changes. -/
def State.answerIllegal (s : State) : State :=
  s.answer (.error .illegalOp)

/-- `RxRead(t)` (20 R51): one answer and the stream after it. -/
def rxRead (t : Timeout) (r : RxStream) : Option Byte × RxStream :=
  match r.answers with
  | a :: rest => (a, { answers := rest, reads := r.reads + 1 })
  | [] => (Config.rxDraw t r.reads, { r with reads := r.reads + 1 })

/-- The transport's answer to the next write, and the stream with that answer taken (20 R52). -/
def txAnswer (x : TxStream) : TxAnswer × TxStream :=
  match x.answers with
  | a :: rest => (a, { x with answers := rest, writes := x.writes + 1 })
  | [] => (Config.txDraw x.writes, { x with writes := x.writes + 1 })

/-- The bytes of one write that reach TX (20 R52): all of them on `ok`, the drawn prefix on `err`. -/
def sentBytes (a : TxAnswer) (bytes : List Byte) : List Byte :=
  match a with
  | .ok => bytes
  | .err sent => bytes.take sent

/-- `TxWrite(bytes)` (20 R52): the answer and the stream after it. -/
def txWrite (bytes : List Byte) (x : TxStream) : TxAnswer × TxStream :=
  let (a, x') := txAnswer x
  (a, { x' with log := x'.log ++ sentBytes a bytes })

/-- Whether a FEED is refused: a RECEIVE has used the transport the fed bytes come from (70 R262(b)). -/
def State.feedBarred (s : State) : Bool :=
  s.receivedYet && s.params.feedSharesRx

/-- Whether a RECEIVE is refused: a FEED has used the transport RECEIVE reads (70 R262(b)). -/
def State.receiveBarred (s : State) : Bool :=
  s.fedYet && s.params.feedSharesRx

/-- Reset of an instance (70 R250): every element of 10 R21 at its reset value. TX and RX are not touched, and what the
model keeps of the host (operations to come, results) stays. Resetting is the host's (instance creation, 92 D25), no
operation of 30 R82 (notes/assumptions/20.md). -/
def State.resetInstance (s : State) : State :=
  { s with
    mode := s.params.addrModeReset
    decActive := false
    decFmode := false
    dec := FrameRec.blank
    fault := false
    fedYet := false
    receivedYet := false }

/-- The host's next operation and the state once it is issued (20 R55). -/
def State.nextRequest (s : State) : Option (Request × State) :=
  match s.pending with
  | [] => none
  | r :: rest => some (r, { s with pending := rest })

/-- The state whose next operation is `r`, before those already pending. -/
def State.issueFirst (s : State) (r : Request) : State :=
  { s with pending := r :: s.pending }

end Sys2Proof.Machine
end

