-- ==== Sys2Proof/Machine/Operands.lean ====
section
/-! DEFINITION. What the operations compute from their operands: the frame layout of spec/30_encoding.md R75, the covered
list of spec/41_checksum.md R121 and the encoder's input validation of spec/42_encoder.md R131. -/

namespace Sys2Proof.Machine

/-- `H(m) = 4 + m`, the header-plus-checksum total (30 R75). -/
def headerTotal (m : Bool) : Nat := 4 + m.toNat

/-- `L(m) = 2 + m`, the position of the length field (30 R75). -/
def lengthPos (m : Bool) : Nat := 2 + m.toNat

/-- `D(m) = 3 + m`, the position of the first data byte (30 R75). -/
def dataPos (m : Bool) : Nat := 3 + m.toNat

/-- The address byte of a frame, present only in address mode on (30 R70, R71). -/
def addressBytes (m : Bool) (P : PacketRecord) : List Byte :=
  if m then [P.addr] else []

/-- `cov(m, P)`, the list the checksum covers (41 R121). -/
def cov (m : Bool) (P : PacketRecord) : List Byte :=
  addressBytes m P ++ [P.cmd, P.n] ++ P.data

/-- ENCODE's validation (42 R131): the first constraint that fails, in the source's order. -/
def encodeError (m : Bool) (P : PacketRecord) : Option ErrorKind :=
  if P.data.length ≠ P.n.toNat then some .invalidLength
  else if m && P.addr.toNat > 0x7F then some .invalidAddress
  else none

/-- `COUNT(k, e)` (44 R195): the byte count RECEIVE returns. -/
def byteCount (kind : ByteCountKind) (k e : Nat) : Nat :=
  match kind with
  | .raw => k
  | .logical => e

end Sys2Proof.Machine
end

