-- ==== Sys2Proof/Machine/Flags.lean ====
section
/-! DEFINITION. WAKE-FRAMER has no condition codes (spec/10_state.md R34): its status flags are `DEC_ACTIVE`, `DEC_ESC` and
`FAULT`, and what an operation computes for the host is its result's code (spec/60_exceptions.md R220). -/

namespace Sys2Proof.Machine

/-- The code of an error kind (60 R220). -/
def ErrorKind.code : ErrorKind → BitVec 4
  | .notStartByte => 3
  | .checksumMismatch => 4
  | .readFailed => 5
  | .invalidLength => 6
  | .invalidAddress => 7
  | .writeFailed => 8
  | .illegalOp => 9
  | .badEscape => 10

/-- The 4-bit code of a result (60 R220). -/
def Result.code : Result → BitVec 4
  | .ok => 0
  | .okMode _ => 0
  | .okBytes _ => 0
  | .okEscape _ _ => 0
  | .okByte _ => 0
  | .okBool _ => 0
  | .okPacket _ _ => 0
  | .incomplete => 1
  | .complete _ => 2
  | .error kind => kind.code

/-- The status flags of 10 R34: `DEC_ACTIVE`, `DEC_ESC`, `FAULT`. -/
def State.statusFlags (s : State) : Bool × Bool × Bool :=
  (s.decActive, s.dec.esc, s.fault)

/-- The source's `ignore_address` (45 R213): `MODE == 0`. -/
def State.ignoreAddress (s : State) : Bool := !s.mode

end Sys2Proof.Machine
end

