-- ==== Sys2Proof/Machine/Checksum.lean ====
section
/-! DEFINITION. The Checksum Adapter (spec/41_checksum.md): the parameter `CK`, CK_COMPUTE and CK_VERIFY. -/

namespace Sys2Proof.Machine

/-- `XOR8` (41 R125): bitwise XOR of every byte, from 0. -/
def xor8 (bytes : List Byte) : Byte := bytes.foldl (· ^^^ ·) 0

/-- The parameter `CK` of an instantiation (41 R120). -/
def checksum (c : Params) (m : Bool) (covered : List Byte) : Byte :=
  match c.ck with
  | .uninterpreted => Config.freeChecksum m covered
  | .xor8 => xor8 covered

/-- `CK(m, cov(m, P))` (41 R122). -/
def computeCk (c : Params) (m : Bool) (P : PacketRecord) : Byte :=
  checksum c m (cov m P)

/-- `verify(m, P)` (41 R124). -/
def verifyCk (c : Params) (m : Bool) (P : Packet) : Bool :=
  P.ck == computeCk c m P.body

/-- CK_COMPUTE (41 R122): `Ok(CK(m, cov(m, P)))`, no check of the record, no state changes. -/
def execCkCompute (m : Bool) (P : PacketRecord) (s : State) : Host.Outcome State Fault Refusal :=
  s.ifLive (.next (s.answer (.okByte (computeCk s.params m P))))

/-- CK_VERIFY (41 R124): `Ok(verify(m, P))`; a mismatch is the value false, not an error. -/
def execCkVerify (m : Bool) (P : Packet) (s : State) : Host.Outcome State Fault Refusal :=
  s.ifLive (.next (s.answer (.okBool (verifyCk s.params m P))))

end Sys2Proof.Machine
end

