-- ==== Sys2Proof/Machine/Escape.lean ====
section
/-! DEFINITION. The Escape Codec (spec/40_escape_codec.md): ESC_ENC, ESC_DEC, and `stuff` and `unstuff` over them. -/

namespace Sys2Proof.Machine

/-- `ESC_ENC(b)` (40 R100, 30 R77): the wire bytes of one logical byte. -/
def escEnc (c : Params) (b : Byte) : List Byte :=
  if b = c.fend then [c.fesc, c.tfend]
  else if b = c.fesc then [c.fesc, c.tfesc]
  else [b]

/-- `stuff(L)` (40 R101). -/
def stuff (c : Params) : List Byte → List Byte
  | [] => []
  | b :: rest => escEnc c b ++ stuff c rest

/-- The outcome of one decoding step (40 R102): `none`, `some x`, or `bad`. -/
inductive EscOutcome where
  | nothing
  | byte (x : Byte)
  | bad
  deriving DecidableEq, Repr

/-- `ESC_DEC(p, b)` (40 R102): the new pending flag and the outcome. -/
def escDec (c : Params) (p : Bool) (b : Byte) : Bool × EscOutcome :=
  match p with
  | false => if b = c.fesc then (true, .nothing) else (false, .byte b)
  | true =>
    if b = c.tfend then (false, .byte c.fend)
    else if b = c.tfesc then (false, .byte c.fesc)
    else (false, .bad)

/-- The answers of `unstuff` (40 R104). -/
inductive Unstuffed where
  | ok (bytes : List Byte)
  | incomplete
  | bad
  deriving DecidableEq, Repr

/-- `go(p, W, acc)` of 40 R104. -/
def unstuffFrom (c : Params) (p : Bool) (W acc : List Byte) : Unstuffed :=
  match W with
  | [] => if p then .incomplete else .ok acc
  | b :: rest =>
    match escDec c p b with
    | (p', .nothing) => unstuffFrom c p' rest acc
    | (p', .byte x) => unstuffFrom c p' rest (acc ++ [x])
    | (_, .bad) => .bad

/-- `unstuff(W)` (40 R104). -/
def unstuff (c : Params) (W : List Byte) : Unstuffed := unstuffFrom c false W []

/-- The result the host operation ESC_DEC returns (40 R102, 60 R227). -/
def escDecResult (c : Params) (p : Bool) (b : Byte) : Result :=
  match escDec c p b with
  | (p', .nothing) => .okEscape p' none
  | (p', .byte x) => .okEscape p' (some x)
  | (_, .bad) => .error .badEscape

/-- ESC_ENC as a host operation (40 R100): `Ok(ESC_ENC(b))`, no state changes. -/
def execEscEnc (b : Byte) (s : State) : Host.Outcome State Fault Refusal :=
  s.ifLive (.next (s.answer (.okBytes (escEnc s.params b))))

/-- ESC_DEC as a host operation (40 R102): `Ok(p', outcome)` or `Error(BadEscape)`, no state changes. -/
def execEscDec (p : Bool) (b : Byte) (s : State) : Host.Outcome State Fault Refusal :=
  s.ifLive (.next (s.answer (escDecResult s.params p b)))

end Sys2Proof.Machine
end

