-- ==== Sys2Proof/Machine/Encoder.lean ====
section
/-! DEFINITION. The Frame Encoder (spec/42_encoder.md): ENCODE. -/

namespace Sys2Proof.Machine

/-- The logical frame of a packet (30 R70, R71; 42 R130): marker, address in mode on, command, length, data, checksum. -/
def logicalFrame (c : Params) (m : Bool) (P : PacketRecord) : List Byte :=
  [c.fend] ++ addressBytes m P ++ [P.cmd, P.n] ++ P.data ++ [computeCk c m P]

/-- The wire frame (30 R78): the start marker raw, every later logical byte stuffed. -/
def wireFrame (c : Params) (m : Bool) (P : PacketRecord) : List Byte :=
  [c.fend] ++ stuff c (logicalFrame c m P).tail

/-- The result of ENCODE after the transport has answered (42 R130, R133). -/
def writeResult : TxAnswer → Result
  | .ok => .ok
  | .err _ => .error .writeFailed

/-- The frame written to TX as one unit, and the result (42 R130). -/
def State.transmit (s : State) (frame : List Byte) : State :=
  let (a, x) := txWrite frame s.tx
  { s with tx := x }.answer (writeResult a)

/-- ENCODE without its gate (42 R130): the first violated constraint, with nothing written, or the frame on TX. -/
def State.encodePacket (s : State) (P : PacketRecord) : State :=
  match encodeError s.mode P with
  | some kind => s.answer (.error kind)
  | none => s.transmit (wireFrame s.params s.mode P)

/-- ENCODE (42 R130). -/
def execEncode (P : PacketRecord) (s : State) : Host.Outcome State Fault Refusal :=
  s.ifLive (.next (s.encodePacket P))

end Sys2Proof.Machine
end

