-- ==== Sys2Proof/Machine/Mode.lean ====
section
/-! DEFINITION. The Mode Flag (spec/45_mode.md): SET_MODE and GET_MODE. -/

namespace Sys2Proof.Machine

/-- SET_MODE without its gate (45 R210): `MODE` only; a frame in progress keeps its mode (45 R211). -/
def State.writeMode (s : State) (m : Bool) : State := { s with mode := m }

/-- SET_MODE (45 R210). -/
def execSetMode (m : Bool) (s : State) : Host.Outcome State Fault Refusal :=
  s.ifLive (.next ((s.writeMode m).answer .ok))

/-- GET_MODE (45 R212): `MODE`, not `DEC_FMODE`. -/
def execGetMode (s : State) : Host.Outcome State Fault Refusal :=
  s.ifLive (.next (s.answer (.okMode s.mode)))

end Sys2Proof.Machine
end

