-- ==== Sys2Proof/Machine/Decoder.lean ====
section
/-! DEFINITION. The incremental decoder (spec/43_incremental_decoder.md): FEED and DEC_RESET, and the field dispatch that
both decoders share. -/

namespace Sys2Proof.Machine

/-- `PLACE(m, pos, x)` (43 R155): the logical byte into the field its position has in mode `m`. The arms are tried in the
rule's order. Position arithmetic is exact (00 R10): `pos <= EXP - 2` is written `pos + 2 ≤ EXP` (DEDUCED, safe,
notes/assumptions/14.md). -/
def FrameRec.place (T : FrameRec) (m : Bool) (pos : Nat) (x : Byte) : FrameRec :=
  if m && pos == 1 then { T with addr := x.truncate 7 }
  else if pos = 1 + m.toNat then { T with cmd := x }
  else if pos = lengthPos m then { T with len := x, exp := BitVec.ofNat 9 (headerTotal m + x.toNat) }
  else if pos + 2 ≤ T.exp.toNat then { T with data := T.data ++ [x] }
  else { T with ck := x }

/-- One logical byte consumed (43 R150): placed at the position `CNT` had, and `CNT` advanced by 1. -/
def FrameRec.consume (T : FrameRec) (m : Bool) (x : Byte) : FrameRec :=
  { T.place m T.cnt.toNat x with cnt := BitVec.ofNat 9 (T.cnt.toNat + 1) }

/-- The completion test (43 R160, 44 R193). -/
def FrameRec.finished (T : FrameRec) : Bool := T.cnt == T.exp

/-- `PACKET(m)` (43 R161): the address forced to 0 in mode off, zero-extended from 7 bits in mode on. -/
def FrameRec.packet (T : FrameRec) (m : Bool) : Packet :=
  { addr := if m then T.addr.zeroExtend 8 else 0, cmd := T.cmd, n := T.len, data := T.data, ck := T.ck }

/-- The frame-start values (43 R152, 44 R190): the marker counted, no escape pending, the provisional total, no data; the
other accumulators as they are. -/
def FrameRec.start (T : FrameRec) (m : Bool) : FrameRec :=
  { T with cnt := 1, exp := BitVec.ofNat 9 (headerTotal m), esc := false, data := [] }

/-- The Idle values of the counters and of the pending escape (43 R160, R170; 10 R29 (a)). -/
def FrameRec.idle (T : FrameRec) : FrameRec :=
  { T with cnt := 0, exp := 0, esc := false }

/-- FEED of `FEND` while Idle (43 R152): Idle to Receiving, with `MODE` copied for the frame (45 R211; DEDUCED, unsafe against
the source design, notes/assumptions/18.md). -/
def State.startFrame (s : State) : State :=
  { s with decActive := true, decFmode := s.mode, dec := s.dec.start s.mode }

/-- `COMPLETE()` (43 R160): to Idle, and the packet or `ChecksumMismatch`. -/
def State.completeFrame (s : State) : State :=
  let P := s.dec.packet s.decFmode
  { s with decActive := false, dec := s.dec.idle }.answer
    (if verifyCk s.params s.decFmode P then .complete P else .error .checksumMismatch)

/-- A logical byte while Receiving (43 R150, the `some x` arm). -/
def State.feedLogical (s : State) (x : Byte) : State :=
  let s' := { s with dec := s.dec.consume s.decFmode x }
  if s'.dec.finished then s'.completeFrame else s'.answer .incomplete

/-- A raw byte while Receiving (43 R150, R153, R163). -/
def State.feedReceiving (s : State) (b : Byte) : State :=
  match escDec s.params s.dec.esc b with
  | (_, .bad) => s.enterBadEscape
  | (p', .nothing) => { s with dec := { s.dec with esc := p' } }.answer .incomplete
  | (p', .byte x) => { s with dec := { s.dec with esc := p' } }.feedLogical x

/-- A raw byte while Idle (43 R150, R152). -/
def State.feedIdle (s : State) (b : Byte) : State :=
  if b = s.params.fend then s.startFrame.answer .incomplete else s.answer (.error .notStartByte)

/-- FEED without its gates (43 R150); the model notes that a byte has been fed (70 R262(b)). -/
def State.feedByte (s : State) (b : Byte) : State :=
  let s' := { s with fedYet := true }
  if s'.decActive then s'.feedReceiving b else s'.feedIdle b

/-- FEED (43 R150). -/
def execFeed (b : Byte) (s : State) : Host.Outcome State Fault Refusal :=
  s.ifLive (if s.feedBarred then .refused .sharedTransport else .next (s.feedByte b))

/-- DEC_RESET without its gate (43 R170): the Idle values, and `ACC_DATA` emptied. -/
def State.abandonFrame (s : State) : State :=
  { s with decActive := false, dec := { s.dec.idle with data := [] } }

/-- DEC_RESET (43 R170). -/
def execDecReset (s : State) : Host.Outcome State Fault Refusal :=
  s.ifLive (.next (s.abandonFrame.answer .ok))

end Sys2Proof.Machine
end

