-- ==== Sys2Proof/Machine/Receive.lean ====
section
/-! DEFINITION. The blocking decoder (spec/44_blocking_decoder.md): RECEIVE. -/

namespace Sys2Proof.Machine

/-- How a RECEIVE ends: with a result, or in the fault `BadEscape` (44 R190). -/
inductive RxEnd where
  | result (r : Result)
  | badEscape
  deriving DecidableEq, Repr

/-- The most reads RECEIVE makes after the first (44 R190 "The loop makes at most 518 reads after the first"). -/
def maxLaterReads : Nat := 518

/-- The end of a frame in RECEIVE (44 R194, R195): the packet with its byte count, or `ChecksumMismatch`. -/
def receiveEnd (c : Params) (m : Bool) (k : Nat) (T : FrameRec) : Result :=
  let P := T.packet m
  if verifyCk c m P then .okPacket P (byteCount c.byteCountKind k T.exp.toNat) else .error .checksumMismatch

/-- The loop of RECEIVE (44 R190, R192, R193), at most `fuel` more reads: `k` bytes are read so far, `T` is the local record.
A frame of the record RECEIVE starts with ends within `maxLaterReads` reads, so the arm for no reads left is never taken
from there (DEDUCED, safe, notes/assumptions/17.md). -/
def receiveLoop (c : Params) (t : Timeout) (m : Bool) : Nat → Nat → FrameRec → RxStream → RxEnd × RxStream
  | 0, _, _, rx => (.result (.error .readFailed), rx)
  | fuel + 1, k, T, rx =>
    match rxRead t rx with
    | (none, rx') => (.result (.error .readFailed), rx')
    | (some b, rx') =>
      match escDec c T.esc b with
      | (p', .nothing) => receiveLoop c t m fuel (k + 1) { T with esc := p' } rx'
      | (_, .bad) => (.badEscape, rx')
      | (p', .byte x) =>
        let T' := { T with esc := p' }.consume m x
        if T'.finished then (.result (receiveEnd c m (k + 1) T'), rx')
        else receiveLoop c t m fuel (k + 1) T' rx'

/-- RECEIVE on the stream (44 R190, R191): the first byte, then the loop with a fresh local record. -/
def receiveFrame (c : Params) (t : Timeout) (m : Bool) (rx : RxStream) : RxEnd × RxStream :=
  match rxRead t rx with
  | (none, rx') => (.result (.error .readFailed), rx')
  | (some b, rx') =>
    if b = c.fend then receiveLoop c t m maxLaterReads 1 (FrameRec.blank.start m) rx'
    else (.result (.error .notStartByte), rx')

/-- The end of a RECEIVE taken into the state: the result answered, or the faulted state entered (44 R190, 60 R230). -/
def State.endReceive (s : State) (e : RxEnd) : State :=
  match e with
  | .result r => s.answer r
  | .badEscape => s.enterBadEscape

/-- RECEIVE without its gates (44 R190, R197): `MODE` read once; the stream loses what was read. -/
def State.receivePacket (s : State) (t : Timeout) : State :=
  let (e, rx') := receiveFrame s.params t s.mode s.rx
  { s with rx := rx', receivedYet := true }.endReceive e

/-- RECEIVE (44 R190). -/
def execReceive (t : Timeout) (s : State) : Host.Outcome State Fault Refusal :=
  s.ifLive (if s.receiveBarred then .refused .sharedTransport else .next (s.receivePacket t))

end Sys2Proof.Machine
end

