-- ==== Sys2Proof/Machine/Dispatch.lean ====
section
/-! DEFINITION. One arm for each operation of spec/30_encoding.md R82. -/

namespace Sys2Proof.Machine

def exec (i : Instr) (s : State) : Host.Outcome State Fault Refusal :=
  match i with
  | .feed b => Sys2Proof.Machine.execFeed b s
  | .encode P => Sys2Proof.Machine.execEncode P s
  | .receive t => Sys2Proof.Machine.execReceive t s
  | .setMode m => Sys2Proof.Machine.execSetMode m s
  | .getMode => Sys2Proof.Machine.execGetMode s
  | .decReset => Sys2Proof.Machine.execDecReset s
  | .escEnc b => Sys2Proof.Machine.execEscEnc b s
  | .escDec p b => Sys2Proof.Machine.execEscDec p b s
  | .ckCompute m P => Sys2Proof.Machine.execCkCompute m P s
  | .ckVerify m P => Sys2Proof.Machine.execCkVerify m P s

end Sys2Proof.Machine
end

