-- ==== Sys2Proof/Machine/Step.lean ====
section
/-! DEFINITION. One step: the host's next operation, decoded and run (spec/20_memory.md R55). -/

namespace Sys2Proof.Machine

/-- One step, in the order of 60 R229: the `FAULT` gate, then an illegal word, then the operation itself. With no operation
issued the block waits and its state persists (70 R252, 60 R236; DEDUCED, safe, notes/assumptions/10.md). -/
def step (s : State) : Host.Outcome State Fault Refusal :=
  s.ifLive <|
    match s.nextRequest with
    | none => .next s
    | some (r, s') =>
      match decode r with
      | .ok i => exec i s'
      | .error _ => .next s'.answerIllegal

/-- `s` with the operation of the table word `w` as its next one (its operand record all zeros), before those pending. -/
def State.withFetchWord (s : State) (nbits w : Nat) : State :=
  s.issueFirst (tableRequest nbits w)

end Sys2Proof.Machine
end

