-- ==== Sys2Proof/Machine/Assembler.lean ====
section
/-! DEFINITION. The spec's assembler for operation sequences (spec/30_encoding.md R87, R88): one line of text to the
operations it stands for. No step of the machine uses it. -/

namespace Sys2Proof.Machine

/-- The tokens of one line (30 R87). -/
inductive Token where
  | word (cs : List Char)
  | comma
  | lbracket
  | rbracket
  deriving DecidableEq, Repr

/-- The word collected so far, if any, before the tokens that follow it. -/
def flushWord (acc : List Char) (rest : List Token) : List Token :=
  if acc.isEmpty then rest else .word acc :: rest

/-- The tokens of a line, `acc` being the characters of the word in progress; `;` starts a comment (30 R87). Words are
parted by spaces, tabs, carriage returns, commas and brackets (DESIGN CHOICE, safe, notes/assumptions/21.md). -/
def lexFrom (acc : List Char) : List Char → List Token
  | [] => flushWord acc []
  | c :: cs =>
    if c = ';' then flushWord acc []
    else if c = ',' then flushWord acc (.comma :: lexFrom [] cs)
    else if c = '[' then flushWord acc (.lbracket :: lexFrom [] cs)
    else if c = ']' then flushWord acc (.rbracket :: lexFrom [] cs)
    else if c = ' ' || c = '\t' || c = '\r' then flushWord acc (lexFrom [] cs)
    else lexFrom (acc ++ [c]) cs

/-- The value of a decimal or hex digit below the base. -/
def digitOf (base : Nat) (c : Char) : Option Nat :=
  let k := c.toNat
  let v :=
    if 48 ≤ k ∧ k ≤ 57 then k - 48
    else if 65 ≤ k ∧ k ≤ 70 then k - 55
    else if 97 ≤ k ∧ k ≤ 102 then k - 87
    else base
  if v < base then some v else none

/-- The digits of a number read after the value `acc`. -/
def digitsFrom (base acc : Nat) : List Char → Option Nat
  | [] => some acc
  | c :: cs => do digitsFrom base (acc * base + (← digitOf base c)) cs

/-- A number: `0x` and hex digits, or decimal digits (30 R87). -/
def numberOf : List Char → Option Nat
  | '0' :: 'x' :: c :: cs => digitsFrom 16 0 (c :: cs)
  | c :: cs => digitsFrom 10 0 (c :: cs)
  | [] => none

/-- An argument: a number, or a bracketed list of numbers (30 R87). -/
inductive AsmArg where
  | num (n : Nat)
  | list (ns : List Nat)
  deriving DecidableEq, Repr

/-- Arguments parted by commas. `want` says that a number or a list must come next; `inside` is the list being read. -/
def argsFrom (want : Bool) (inside : Option (List Nat)) (acc : List AsmArg) : List Token → Option (List AsmArg)
  | [] => if inside.isNone && (!want || acc.isEmpty) then some acc else none
  | tok :: rest =>
    match tok, want, inside with
    | .word cs, true, none => do argsFrom false none (acc ++ [.num (← numberOf cs)]) rest
    | .word cs, true, some ns => do argsFrom false (some (ns ++ [← numberOf cs])) acc rest
    | .lbracket, true, none => argsFrom true (some []) acc rest
    | .rbracket, true, some [] => argsFrom false none (acc ++ [.list []]) rest
    | .rbracket, false, some ns => argsFrom false none (acc ++ [.list ns]) rest
    | .comma, false, inside => argsFrom true inside acc rest
    | _, _, _ => none

/-- A number that fits a byte. -/
def byteArg : AsmArg → Option Byte
  | .num n => if n < 256 then some (BitVec.ofNat 8 n) else none
  | .list _ => none

/-- A bracketed list of bytes. -/
def bytesArg : AsmArg → Option (List Byte)
  | .list ns => ns.mapM fun n => byteArg (.num n)
  | .num _ => none

/-- A one-bit operand, `0` or `1` (30 R87 "m: 0 or 1"). -/
def bitArg : AsmArg → Option Bool
  | .num 0 => some false
  | .num 1 => some true
  | _ => none

/-- A timeout operand: the token's number (notes/assumptions/13.md). -/
def timeoutArg : AsmArg → Option Timeout
  | .num n => some { token := n }
  | .list _ => none

/-- The packet record `addr, cmd, n, [d0, d1, ...]` (30 R87). -/
def recordArgs (addr cmd n data : AsmArg) : Option PacketRecord := do
  pure { addr := ← byteArg addr, cmd := ← byteArg cmd, n := ← byteArg n, data := ← bytesArg data }

/-- The mnemonics of 30 R87, and the pseudo-operations of R88. -/
inductive AsmOp where
  | op (o : Op)
  | feeds
  deriving DecidableEq, Repr

/-- The operation a mnemonic names (30 R87, R88; `SEND` is a synonym for `ENCODE`). -/
def asmOpOf (mnemonic : List Char) : Option AsmOp :=
  let table : List (String × AsmOp) :=
    [("FEED", .op .feed), ("ENCODE", .op .encode), ("RECEIVE", .op .receive), ("SETMODE", .op .setMode),
     ("GETMODE", .op .getMode), ("DECRESET", .op .decReset), ("ESCENC", .op .escEnc), ("ESCDEC", .op .escDec),
     ("CKCOMPUTE", .op .ckCompute), ("CKVERIFY", .op .ckVerify), ("FEEDS", .feeds), ("SEND", .op .encode)]
  (table.find? fun row => row.1.toList == mnemonic).map (·.2)

/-- The operation with its arguments (30 R87). -/
def asmInstr : Op → List AsmArg → Option Instr
  | .feed, [b] => do pure (.feed (← byteArg b))
  | .encode, [addr, cmd, n, data] => do pure (.encode (← recordArgs addr cmd n data))
  | .receive, [t] => do pure (.receive (← timeoutArg t))
  | .setMode, [m] => do pure (.setMode (← bitArg m))
  | .getMode, [] => some .getMode
  | .decReset, [] => some .decReset
  | .escEnc, [b] => do pure (.escEnc (← byteArg b))
  | .escDec, [p, b] => do pure (.escDec (← bitArg p) (← byteArg b))
  | .ckCompute, [m, addr, cmd, n, data] => do pure (.ckCompute (← bitArg m) (← recordArgs addr cmd n data))
  | .ckVerify, [m, addr, cmd, n, data, ck] => do
    pure (.ckVerify (← bitArg m) ((← recordArgs addr cmd n data).withCk (← byteArg ck)))
  | _, _ => none

/-- The operations of a mnemonic with its arguments; `FEEDS b0, ..., bk` is one FEED for each byte, in order (30 R88). -/
def expandAsm : AsmOp → List AsmArg → Option (List Instr)
  | .op o, args => do pure [← asmInstr o args]
  | .feeds, [] => none
  | .feeds, args => args.mapM fun a => do pure (.feed (← byteArg a))

/-- One line of the assembler: the operations it stands for, none of them for a blank line or a comment, and no answer for
a line the syntax does not admit (30 R87, R88). -/
def assembleLine (line : List Char) : Option (List Instr) :=
  match lexFrom [] line with
  | [] => some []
  | .word mnemonic :: rest => do expandAsm (← asmOpOf mnemonic) (← argsFrom true none [] rest)
  | _ => none

/-- The lines of a text, `acc` being the line in progress. -/
def linesFrom (acc : List Char) : List Char → List (List Char)
  | [] => [acc]
  | c :: cs => if c = '\n' then acc :: linesFrom [] cs else linesFrom (acc ++ [c]) cs

/-- A program text: the operations of its lines, in order (30 R87 "One operation per line"). -/
def assemble (text : List Char) : Option (List Instr) := do
  pure (← (linesFrom [] text).mapM assembleLine).flatten

end Sys2Proof.Machine
end

