-- ==== Sys2Proof/Safety.lean ====
section
/-! DEFINITION. What claims about the machine are stated in terms of: runs of operations and what a host observes of them
(spec/70_reset_and_hazards.md R266), the invariants of the incremental decoder (spec/10_state.md R29) and of the transport's
owner (spec/70_reset_and_hazards.md R262), and the named premise on the checksum (spec/41_checksum.md R123). -/

namespace Sys2Proof.Machine

/-- Operations run one after another, as the host issues them (20 R55). -/
def runOps : List Instr → State → Host.Outcome State Fault Refusal
  | [], s => .next s
  | i :: rest, s =>
    match exec i s with
    | .next t => runOps rest t
    | .fault f => .fault f
    | .refused r => .refused r

/-- `FEEDS b0, ..., bk` (30 R88). -/
def feeds (bytes : List Byte) : List Instr := bytes.map .feed

/-- What a run that has not stopped gives to the outside: the results, the TX log and `FAULT`. 70 R266 counts the whole final
state in; its other elements are left out here, because the statements over this say that they do not reach the outside. -/
def observed (o : Host.Outcome State Fault Refusal) : Option (List Result × List Byte × Bool) :=
  match o with
  | .next t => some (t.results, t.tx.log, t.fault)
  | .fault _ => none
  | .refused _ => none

/-- FEED is neither blocked by `FAULT` nor refused (60 R230, 70 R262(b)). -/
abbrev State.FeedReady (s : State) : Prop := s.fault = false ∧ s.feedBarred = false

/-- RECEIVE is neither blocked by `FAULT` nor refused (60 R230, 70 R262(b)). -/
abbrev State.ReceiveReady (s : State) : Prop := s.fault = false ∧ s.receiveBarred = false

/-- A frame in progress in mode `m`: (b) to (e) of 10 R29, with `L` and `H` read with `m`. -/
abbrev FrameRec.InProgress (T : FrameRec) (m : Bool) : Prop :=
  (1 ≤ T.cnt.toNat ∧ T.cnt.toNat < T.exp.toNat ∧ T.exp.toNat ≤ 260) ∧
  (T.cnt.toNat ≤ lengthPos m → T.exp.toNat = headerTotal m) ∧
  (lengthPos m < T.cnt.toNat → T.exp.toNat = headerTotal m + T.len.toNat) ∧
  (lengthPos m < T.cnt.toNat → T.data.length = min (T.cnt.toNat - (lengthPos m + 1)) T.len.toNat) ∧
  (T.cnt.toNat ≤ lengthPos m → T.data.length = 0)

/-- The invariants (a) to (e) of 10 R29, with `m = DEC_FMODE`. (f) speaks of a state's past and is stated of single steps
instead. -/
abbrev State.DecInv (s : State) : Prop :=
  (s.decActive = false → s.dec.cnt = 0 ∧ s.dec.exp = 0 ∧ s.dec.esc = false) ∧
  (s.decActive = true → s.dec.InProgress s.decFmode)

/-- A transport has one owner (70 R253 (5), R262(b)): where the host FEEDs the bytes of RECEIVE's transport, not both
operations have run. -/
abbrev State.OneOwner (s : State) : Prop :=
  ¬ (s.params.feedSharesRx = true ∧ s.fedYet = true ∧ s.receivedYet = true)

/-- A list with bit `j` of its byte `i` flipped. -/
def flipBit (L : List Byte) (i j : Nat) : List Byte :=
  L.modify i (· ^^^ (1#8 <<< j))

/-- Two lists of equal length that differ in exactly one bit (41 R123). -/
def DifferInOneBit (L L' : List Byte) : Prop :=
  ∃ i j, i < L.length ∧ j < 8 ∧ L' = flipBit L i j

/-- `CK_DETECTS_1BIT` (41 R123): a premise a claim may take, not a property of the machine. -/
def DetectsOneBit (c : Params) : Prop :=
  ∀ m L L', DifferInOneBit L L' → checksum c m L ≠ checksum c m L'

/-- The wire frame of a record with a given checksum byte: the encoder's frame when that byte is its checksum, and the frame
a line has damaged when it is the checksum of another record (90 C5). -/
def frameWithCk (c : Params) (m : Bool) (P : PacketRecord) (ck : Byte) : List Byte :=
  [c.fend] ++ stuff c (addressBytes m P ++ [P.cmd, P.n] ++ P.data ++ [ck])

end Sys2Proof.Machine
end

