-- ==== Sys2Proof/Certificates/Slice0/Obligations.lean ====
section
/-! DEFINITION. The statements for the provers, in the order of OBLIGATIONS.json. -/

open Sys2Proof Sys2Proof.Machine

/-! Operation words -/

/-- Decoding the word and operand record of an operation gives the operation back, every operand at every value. -/
def Obligations.DecodeEncodeRoundTrip : Prop :=
  ∀ i : Instr, i.wellFormed = true → decode (encode i) = .ok i

/-- Each legal word has one meaning: the encoding of what it decodes to is the word itself. -/
def Obligations.DecodedWordIsItsEncoding : Prop :=
  ∀ (r : Request) (i : Instr), decode r = .ok i → (encode i).word = r.word

/-- 30 R83 and 60 R224. -/
def Obligations.IllegalWordsAnswerIllegalOp : Prop :=
  (∀ r : Request,
    (∃ e, decode r = .error e) ↔
      (r.word >>> 12 = 0 ∨ 0xB ≤ (r.word >>> 12).toNat ∨
        ∃ row ∈ opMap, row.pattern >>> 12 = r.word >>> 12 ∧ r.word &&& row.mask ≠ row.pattern)) ∧
  (∀ (s : State) (r : Request) (rest : List Request) (e : IllegalWord),
    s.fault = false → s.pending = r :: rest → decode r = .error e →
      step s = .next { s with pending := rest, results := s.results ++ [.error .illegalOp] })

/-- No word selects two rows of the operation map. -/
def Obligations.OperationMapRowsDisjoint : Prop :=
  opMap.Pairwise fun a b => ∀ w : OpWord, ¬ (a.selects w = true ∧ b.selects w = true)

/-- The words of vector V-X1 of 95 decode as its table says. -/
def Obligations.OperationWordsDecode : Prop :=
  decode { word := 0x10C0 } = .ok (.feed 0xC0) ∧
  decode { word := 0x2000, operands := { addr := 0x05, cmd := 0x10, n := 1, data := [0xAA] } }
    = .ok (.encode { addr := 0x05, cmd := 0x10, n := 1, data := [0xAA] }) ∧
  decode { word := 0x3000, operands := { t := { token := 7 } } } = .ok (.receive { token := 7 }) ∧
  decode { word := 0x4001 } = .ok (.setMode true) ∧
  decode { word := 0x5000 } = .ok .getMode ∧
  decode { word := 0x6000 } = .ok .decReset ∧
  decode { word := 0x70DB } = .ok (.escEnc 0xDB) ∧
  decode { word := 0x81DC } = .ok (.escDec true 0xDC) ∧
  decode { word := 0x9001, operands := { addr := 0x7F, cmd := 0x20 } }
    = .ok (.ckCompute true { addr := 0x7F, cmd := 0x20, n := 0, data := [] }) ∧
  decode { word := 0xA000, operands := { cmd := 0x20, ck := 0x20 } }
    = .ok (.ckVerify false { addr := 0, cmd := 0x20, n := 0, data := [], ck := 0x20 })

/-! The step -/

/-- A step runs the operation the host's next word decodes to, taken off the operations to come. -/
def Obligations.StepRunsDecodedOperation : Prop :=
  ∀ (s : State) (r : Request) (rest : List Request) (i : Instr),
    s.fault = false → s.pending = r :: rest → decode r = .ok i →
      step s = exec i { s with pending := rest }

/-- With nothing issued the block waits (MODEL's reading of 70 R252 and 60 R236, log entry 10). -/
def Obligations.StepWaitsForTheHost : Prop :=
  ∀ s : State, s.fault = false → s.pending = [] → step s = .next s

/-- 43 R151; and the same of every other operation and of every step (60 R229 (1), R230). -/
def Obligations.FaultBlocksEveryOperation : Prop :=
  ∀ s : State, s.fault = true →
    (∀ b, exec (.feed b) s = .fault .faulted) ∧ (∀ i, exec i s = .fault .faulted) ∧ step s = .fault .faulted

/-! FEED -/

/-- 43 R152. -/
def Obligations.FeedWhileIdle : Prop :=
  ∀ (b : Byte) (s : State), s.FeedReady → s.decActive = false →
    (b = s.params.fend →
      exec (.feed b) s = .next { s with
        fedYet := true
        decActive := true
        decFmode := s.mode
        dec := { s.dec with cnt := 1, exp := if s.mode then 5 else 4, esc := false, data := [] }
        results := s.results ++ [.incomplete] }) ∧
    (b ≠ s.params.fend →
      exec (.feed b) s = .next { s with fedYet := true, results := s.results ++ [.error .notStartByte] })

/-- 43 R153. -/
def Obligations.FeedEscapeStep : Prop :=
  ∀ (b : Byte) (s : State) (p' : Bool), s.FeedReady → s.decActive = true →
    (escDec s.params s.dec.esc b = (p', .nothing) →
      exec (.feed b) s = .next { s with
        fedYet := true
        dec := { s.dec with esc := p' }
        results := s.results ++ [.incomplete] }) ∧
    (∀ x, escDec s.params s.dec.esc b = (p', .byte x) →
      ∃ t, exec (.feed b) s = .next t ∧ t.dec.esc = p' ∧ t.fault = false)

/-- 43 R163; `fedYet` is the model's own field (log entry 11). -/
def Obligations.FeedBadEscapeFaults : Prop :=
  ∀ (b : Byte) (s : State), s.FeedReady → s.decActive = true →
    s.dec.esc = true → b ≠ s.params.tfend → b ≠ s.params.tfesc →
      exec (.feed b) s = .next { s with fedYet := true, fault := true }

/-- 43 R154. -/
def Obligations.StartMarkerInsideFrameIsData : Prop :=
  ∀ s : State, s.FeedReady → s.decActive = true → s.DecInv → s.dec.esc = false →
    exec (.feed s.params.fend) s = .next ({ s with fedYet := true }.feedLogical s.params.fend) ∧
    (s.dec.cnt.toNat + 1 = s.dec.exp.toNat ∨
      ∃ t, exec (.feed s.params.fend) s = .next t ∧ t.decActive = true ∧ t.decFmode = s.decFmode ∧
        t.dec.cnt.toNat = s.dec.cnt.toNat + 1 ∧ t.results = s.results ++ [.incomplete])

/-- 43 R156. -/
def Obligations.FeedAddressAndCommand : Prop :=
  ∀ (b x : Byte) (p' : Bool) (s : State), s.FeedReady → s.decActive = true → s.DecInv →
    escDec s.params s.dec.esc b = (p', .byte x) →
    (s.decFmode = true → s.dec.cnt = 1 →
      exec (.feed b) s = .next { s with
        fedYet := true
        dec := { s.dec with esc := p', addr := x.truncate 7, cnt := 2 }
        results := s.results ++ [.incomplete] }) ∧
    (s.decFmode = true → s.dec.cnt = 2 →
      exec (.feed b) s = .next { s with
        fedYet := true
        dec := { s.dec with esc := p', cmd := x, cnt := 3 }
        results := s.results ++ [.incomplete] }) ∧
    (s.decFmode = false → s.dec.cnt = 1 →
      exec (.feed b) s = .next { s with
        fedYet := true
        dec := { s.dec with esc := p', cmd := x, cnt := 2 }
        results := s.results ++ [.incomplete] })

/-- 43 R157. -/
def Obligations.FeedLengthByte : Prop :=
  (∀ (b x : Byte) (p' : Bool) (s : State), s.FeedReady → s.decActive = true → s.DecInv →
    escDec s.params s.dec.esc b = (p', .byte x) → s.dec.cnt.toNat = (if s.decFmode then 3 else 2) →
      exec (.feed b) s = .next { s with
        fedYet := true
        dec := { s.dec with
          esc := p'
          len := x
          exp := BitVec.ofNat 9 ((if s.decFmode then 5 else 4) + x.toNat)
          cnt := BitVec.ofNat 9 (s.dec.cnt.toNat + 1) }
        results := s.results ++ [.incomplete] }) ∧
  (∀ (b : Byte) (s t : State), s.decActive = true → s.DecInv → (if s.decFmode then 3 else 2) < s.dec.cnt.toNat →
    exec (.feed b) s = .next t → t.decActive = true → t.dec.exp = s.dec.exp) ∧
  (∀ s : State, s.decActive = true → s.DecInv → s.dec.len = 0 → s.dec.cnt.toNat = lengthPos s.decFmode + 1 →
    s.dec.cnt.toNat = s.dec.exp.toNat - 1)

/-- 43 R158. -/
def Obligations.FeedDataByte : Prop :=
  ∀ (b x : Byte) (p' : Bool) (s : State), s.FeedReady → s.decActive = true → s.DecInv →
    escDec s.params s.dec.esc b = (p', .byte x) →
    dataPos s.decFmode ≤ s.dec.cnt.toNat → s.dec.cnt.toNat ≤ s.dec.exp.toNat - 2 →
      s.dec.data.length = s.dec.cnt.toNat - dataPos s.decFmode ∧
      exec (.feed b) s = .next { s with
        fedYet := true
        dec := { s.dec with
          esc := p'
          data := s.dec.data ++ [x]
          cnt := BitVec.ofNat 9 (s.dec.cnt.toNat + 1) }
        results := s.results ++ [.incomplete] }

/-- 43 R159, R161, and completion (R160). -/
def Obligations.FeedChecksumByteCompletes : Prop :=
  ∀ (b x : Byte) (p' : Bool) (s : State) (P : Packet), s.FeedReady → s.decActive = true → s.DecInv →
    escDec s.params s.dec.esc b = (p', .byte x) → s.dec.cnt.toNat = s.dec.exp.toNat - 1 →
    P = { addr := if s.decFmode then s.dec.addr.zeroExtend 8 else 0
          cmd := s.dec.cmd
          n := s.dec.len
          data := s.dec.data
          ck := x } →
      P.data.length = P.n.toNat ∧
      exec (.feed b) s = .next { s with
        fedYet := true
        decActive := false
        dec := { s.dec with cnt := 0, exp := 0, esc := false, ck := x }
        results := s.results ++
          [if x = computeCk s.params s.decFmode P.body then .complete P else .error .checksumMismatch] }

/-- FEED's frame: what a FEED leaves unchanged, and the one result it answers unless it faults. -/
def Obligations.FeedLeavesTheRest : Prop :=
  ∀ (b : Byte) (s t : State), exec (.feed b) s = .next t →
    t.params = s.params ∧ t.mode = s.mode ∧ t.rx = s.rx ∧ t.tx = s.tx ∧ t.pending = s.pending ∧
    t.receivedYet = s.receivedYet ∧
    (s.decActive = true → t.decFmode = s.decFmode) ∧
    ((t.fault = false ∧ ∃ r, t.results = s.results ++ [r]) ∨
      t = { s with fedYet := true, fault := true })

/-- 43 R162. -/
def Obligations.FeedErrorsLeaveTheDecoderIdle : Prop :=
  ∀ (b : Byte) (s t : State) (k : ErrorKind), exec (.feed b) s = .next t →
    t.results = s.results ++ [.error k] →
      t.decActive = false ∧
      ((k = .notStartByte ∧ s.decActive = false) ∨ (k = .checksumMismatch ∧ s.decActive = true)) ∧
      ∃ u, exec (.feed t.params.fend) t = .next u ∧ u.decActive = true ∧ u.dec.cnt = 1 ∧
        u.results = t.results ++ [.incomplete]

/-- The invariants of 10 R29 hold after reset. -/
def Obligations.DecoderInvariantAtReset : Prop :=
  State.reset.DecInv ∧ ∀ s : State, s.resetInstance.DecInv

/-- Every step keeps the invariants of 10 R29: (a) to (e) as an invariant of the state, and (f), which speaks of the
state's past, as what the operation that led to the state can have been: either it fed `FESC` in Receiving with nothing
pending, or the escape was pending already and no byte has followed it (the byte that faults is not taken). -/
def Obligations.DecoderInvariantKept : Prop :=
  (∀ s t : State, s.DecInv → step s = .next t → t.DecInv) ∧
  (∀ (i : Instr) (s t : State), exec i s = .next t → t.decActive = true → t.dec.esc = true →
    s.decActive = true ∧
    ((s.dec.esc = false ∧ i = .feed s.params.fesc) ∨
      (s.dec.esc = true ∧ ∀ b, i = .feed b → t = { s with fedYet := true, fault := true })))

/-- 10 R26 and R29 (f): `DEC_ESC` is set only by a FEED of `FESC` while Receiving. -/
def Obligations.EscapePendingOnlyAfterFesc : Prop :=
  ∀ (i : Instr) (s t : State), exec i s = .next t → s.dec.esc = false → t.dec.esc = true →
    i = .feed s.params.fesc ∧ s.decActive = true ∧ t.decActive = true

/-- A packet FEED returns is well-formed (00 R13) and its checksum matches. -/
def Obligations.CompletedPacketIsWellFormed : Prop :=
  ∀ (b : Byte) (s t : State) (P : Packet), s.DecInv → exec (.feed b) s = .next t →
    t.results = s.results ++ [.complete P] →
      P.wellFormed = true ∧ verifyCk s.params s.decFmode P = true

/-- 10 R28 and 43 R165: what an Idle decoder still holds is never observed, whatever operations follow. -/
def Obligations.IdleDecoderContentsUnobservable : Prop :=
  ∀ (ops : List Instr) (s : State) (f : Bool) (d : FrameRec), s.decActive = false →
    observed (runOps ops { s with decFmode := f, dec := d }) = observed (runOps ops s)

/-- 43 R170. -/
def Obligations.DecResetAbandonsTheFrame : Prop :=
  decode { word := 0x6000 } = .ok .decReset ∧
  (∀ s : State, s.fault = true → exec .decReset s = .fault .faulted) ∧
  ∀ s : State, s.fault = false →
    exec .decReset s = .next { s with
      decActive := false
      dec := { s.dec with cnt := 0, exp := 0, esc := false, data := [] }
      results := s.results ++ [.ok] }

/-- 45 R211, for the incremental decoder: a mode set inside a frame does not reach that frame. -/
def Obligations.ModeChangeInsideFrameIsDeferred : Prop :=
  ∀ (b : Byte) (m : Bool) (s t : State), s.decActive = true → exec (.feed b) s = .next t →
    exec (.feed b) { s with mode := m } = .next { t with mode := m }

/-- 10 R23: what sets and what clears `DEC_ACTIVE`. -/
def Obligations.FramesStartAndEndOnlyHere : Prop :=
  (∀ (i : Instr) (s t : State), exec i s = .next t →
    (s.decActive = false → t.decActive = true → i = .feed s.params.fend) ∧
    (s.decActive = true → t.decActive = false →
      i = .decReset ∨
      ∃ b, i = .feed b ∧
        ((∃ P, t.results = s.results ++ [.complete P]) ∨ t.results = s.results ++ [.error .checksumMismatch]))) ∧
  (∀ s : State, s.resetInstance.decActive = false)

/-- 10 R35: what sets `FAULT`. -/
def Obligations.FaultSetOnlyByBadEscape : Prop :=
  (∀ (i : Instr) (s t : State), exec i s = .next t →
    s.fault = false ∧
    (t.fault = true →
      (∃ b, i = .feed b ∧ s.decActive = true ∧ s.dec.esc = true ∧ b ≠ s.params.tfend ∧ b ≠ s.params.tfesc) ∨
      (∃ τ, i = .receive τ ∧ (receiveFrame s.params τ s.mode s.rx).1 = .badEscape))) ∧
  (∀ s : State, s.resetInstance.fault = false)

/-! ENCODE -/

/-- 42 R131 and R132. -/
def Obligations.EncodeRejectsBadPackets : Prop :=
  ∀ (P : PacketRecord) (s : State), s.fault = false →
    (P.data.length ≠ P.n.toNat →
      exec (.encode P) s = .next { s with results := s.results ++ [.error .invalidLength] }) ∧
    (P.data.length = P.n.toNat → s.mode = true → P.addr.toNat > 0x7F →
      exec (.encode P) s = .next { s with results := s.results ++ [.error .invalidAddress] })

/-- 42 R130, where the transport answers `ok`. -/
def Obligations.EncodeWritesTheFrame : Prop :=
  ∀ (P : PacketRecord) (s : State) (x : TxStream) (covered : List Byte), s.fault = false →
    P.data.length = P.n.toNat → (s.mode = true → P.addr.toNat ≤ 0x7F) → txAnswer s.tx = (.ok, x) →
    covered = (if s.mode then [P.addr] else []) ++ [P.cmd, P.n] ++ P.data →
      exec (.encode P) s = .next { s with
        tx := { x with
          log := s.tx.log ++ [s.params.fend] ++
            stuff s.params (covered ++ [checksum s.params s.mode covered]) }
        results := s.results ++ [.ok] }

/-- 42 R133. -/
def Obligations.EncodeWriteFailure : Prop :=
  ∀ (P : PacketRecord) (s : State) (x : TxStream) (sent : Nat), s.fault = false →
    P.wellFormed s.mode = true → txAnswer s.tx = (.err sent, x) →
      exec (.encode P) s = .next { s with
        tx := { x with log := s.tx.log ++ (wireFrame s.params s.mode P).take sent }
        results := s.results ++ [.error .writeFailed] }

/-- 42 R134 and 10 R30: ENCODE neither reads nor writes the decoder. -/
def Obligations.EncodeLeavesTheDecoder : Prop :=
  ∀ (P : PacketRecord) (s t : State), exec (.encode P) s = .next t →
    t = { s with tx := t.tx, results := t.results } ∧
    ∀ (a f : Bool) (d : FrameRec),
      exec (.encode P) { s with decActive := a, decFmode := f, dec := d }
        = .next { t with decActive := a, decFmode := f, dec := d }

/-- 30 R79: the lengths of a frame the encoder writes, and the range of the counters. -/
def Obligations.FrameLengthBounds : Prop :=
  (∀ (c : Params) (m : Bool) (P : PacketRecord), P.data.length = P.n.toNat →
    (logicalFrame c m P).length = (if m then 5 else 4) + P.n.toNat ∧
    4 ≤ (logicalFrame c m P).length ∧ (logicalFrame c m P).length ≤ 260 ∧
    (wireFrame c m P).length =
      1 + ((logicalFrame c m P).tail.map fun b => if b = c.fend ∨ b = c.fesc then 2 else 1).sum ∧
    4 ≤ (wireFrame c m P).length ∧ (wireFrame c m P).length ≤ 519) ∧
  (∀ s : State, s.DecInv → s.dec.cnt.toNat ≤ 260 ∧ s.dec.exp.toNat ≤ 260)

/-- 40 R101. -/
def Obligations.StuffingKeepsOrderAndLength : Prop :=
  ∀ c : Params,
    stuff c [] = [] ∧
    (∀ b L, stuff c ([b] ++ L) = escEnc c b ++ stuff c L) ∧
    (∀ L, (stuff c L).length = L.length + L.countP (fun b => b == c.fend || b == c.fesc)) ∧
    (∀ L L', stuff c (L ++ L') = stuff c L ++ stuff c L') ∧
    (∀ m P, wireFrame c m P = c.fend :: stuff c ((logicalFrame c m P).drop 1))

/-- 40 R106. -/
def Obligations.StuffedBytesHoldNoStartMarker : Prop :=
  ∀ (c : Params) (L : List Byte), ∀ b ∈ stuff c L, b ≠ c.fend

/-- 40 R105. -/
def Obligations.UnstuffInvertsStuff : Prop :=
  ∀ (c : Params) (L : List Byte), unstuff c (stuff c L) = .ok L

/-- 42 R135. -/
def Obligations.EncodeThenFeedRoundTrip : Prop :=
  ∀ (P : PacketRecord) (s : State) (x : TxStream) (frame : List Byte),
    s.FeedReady → s.decActive = false →
    P.data.length = P.n.toNat → (s.mode = true → P.addr.toNat ≤ 0x7F) → txAnswer s.tx = (.ok, x) →
    frame = wireFrame s.params s.mode P →
      ∃ t, runOps (.encode P :: feeds frame) s = .next t ∧
        t.tx.log = s.tx.log ++ frame ∧
        t.results = s.results ++ [.ok] ++ List.replicate (frame.length - 1) .incomplete ++
          [.complete { addr := if s.mode then P.addr else 0
                       cmd := P.cmd
                       n := P.n
                       data := P.data
                       ck := computeCk s.params s.mode P }]

/-- 90 C5 and 41 R123: the narrowed single-bit property, on the premise `CK_DETECTS_1BIT`. -/
def Obligations.SingleBitDamageIsDetected : Prop :=
  ∀ (P P' : PacketRecord) (s : State), DetectsOneBit s.params → s.FeedReady → s.decActive = false →
    P.wellFormed s.mode = true → P'.wellFormed s.mode = true → P'.n = P.n →
    DifferInOneBit (cov s.mode P) (cov s.mode P') →
      ∃ t, runOps (feeds (frameWithCk s.params s.mode P' (computeCk s.params s.mode P))) s = .next t ∧
        t.decActive = false ∧
        t.results = s.results ++
          List.replicate ((frameWithCk s.params s.mode P' (computeCk s.params s.mode P)).length - 1) .incomplete ++
          [.error .checksumMismatch]

/-! RECEIVE -/

/-- 44 R191. -/
def Obligations.ReceiveFirstByte : Prop :=
  ∀ (τ : Timeout) (s : State) (rx' : RxStream), s.ReceiveReady →
    (rxRead τ s.rx = (none, rx') →
      exec (.receive τ) s = .next { s with
        rx := rx'
        receivedYet := true
        results := s.results ++ [.error .readFailed] }) ∧
    (∀ b, rxRead τ s.rx = (some b, rx') → b ≠ s.params.fend →
      exec (.receive τ) s = .next { s with
        rx := rx'
        receivedYet := true
        results := s.results ++ [.error .notStartByte] })

/-- The completion of RECEIVE: one of its results (44 R190), or the faulted state. -/
def Obligations.ReceiveAlwaysEnds : Prop :=
  ∀ (τ : Timeout) (s : State), s.ReceiveReady →
    ∃ t, exec (.receive τ) s = .next t ∧
      ((t.fault = true ∧ t.results = s.results) ∨
        (t.fault = false ∧ ∃ r, t.results = s.results ++ [r] ∧
          (r = .error .readFailed ∨ r = .error .notStartByte ∨ r = .error .checksumMismatch ∨
            ∃ P k, r = .okPacket P k ∧ P.wellFormed = true ∧ verifyCk s.params s.mode P = true)))

/-- 44 R196 and 10 R31: RECEIVE neither reads nor writes the incremental decoder, and leaves the rest. -/
def Obligations.ReceiveLeavesTheDecoder : Prop :=
  ∀ (τ : Timeout) (s t : State), exec (.receive τ) s = .next t →
    t = { s with rx := t.rx, receivedYet := true, fault := t.fault, results := t.results } ∧
    ∀ (a f : Bool) (d : FrameRec),
      exec (.receive τ) { s with decActive := a, decFmode := f, dec := d }
        = .next { t with decActive := a, decFmode := f, dec := d }

/-- 43 R164: RECEIVE of the bytes that FEED completes a frame with gives the same packet, or the same mismatch. -/
def Obligations.ReceiveAgreesWithFeed : Prop :=
  ∀ (bytes : List Byte) (rest : List (Option Byte)) (τ : Timeout) (s t : State),
    s.FeedReady → s.ReceiveReady → s.decActive = false → runOps (feeds bytes) s = .next t →
    (∀ P, t.results = s.results ++ List.replicate (bytes.length - 1) .incomplete ++ [.complete P] →
      ∃ u, exec (.receive τ) { s with rx := { s.rx with answers := bytes.map some ++ rest } } = .next u ∧
        u.rx = { answers := rest, reads := s.rx.reads + bytes.length } ∧ u.fault = false ∧
        u.results = s.results ++
          [.okPacket P (byteCount s.params.byteCountKind bytes.length (headerTotal s.mode + P.n.toNat))]) ∧
    (t.results = s.results ++ List.replicate (bytes.length - 1) .incomplete ++ [.error .checksumMismatch] →
      ∃ u, exec (.receive τ) { s with rx := { s.rx with answers := bytes.map some ++ rest } } = .next u ∧
        u.rx = { answers := rest, reads := s.rx.reads + bytes.length } ∧ u.fault = false ∧
        u.results = s.results ++ [.error .checksumMismatch])

/-- RECEIVE of a frame ENCODE wrote gives the packet back, with its byte count (42 R130, 44 R190, R194, R195). -/
def Obligations.EncodedFrameIsReceived : Prop :=
  ∀ (P : PacketRecord) (τ : Timeout) (s : State) (frame : List Byte) (rest : List (Option Byte)),
    s.ReceiveReady → P.data.length = P.n.toNat → (s.mode = true → P.addr.toNat ≤ 0x7F) →
    frame = wireFrame s.params s.mode P → s.rx.answers = frame.map some ++ rest →
      exec (.receive τ) s = .next { s with
        rx := { answers := rest, reads := s.rx.reads + frame.length }
        receivedYet := true
        results := s.results ++
          [.okPacket
            { addr := if s.mode then P.addr else 0
              cmd := P.cmd
              n := P.n
              data := P.data
              ck := computeCk s.params s.mode P }
            (match s.params.byteCountKind with
              | .raw => frame.length
              | .logical => (if s.mode then 5 else 4) + P.n.toNat)] }

/-- 44 R192: a read without a byte, before the frame is complete, ends RECEIVE with `ReadFailed`. -/
def Obligations.ReceiveTimeoutLosesTheFrame : Prop :=
  ∀ (bytes : List Byte) (rest : List (Option Byte)) (τ : Timeout) (s t : State),
    s.FeedReady → s.ReceiveReady → s.decActive = false → runOps (feeds bytes) s = .next t →
    t.results = s.results ++ List.replicate bytes.length .incomplete →
      exec (.receive τ) { s with rx := { s.rx with answers := bytes.map some ++ none :: rest } } = .next { s with
        rx := { answers := rest, reads := s.rx.reads + bytes.length + 1 }
        receivedYet := true
        results := s.results ++ [.error .readFailed] }

/-- 44 R190 and 60 R230: RECEIVE of bytes whose last faults FEED faults too, with the bytes consumed. -/
def Obligations.ReceiveFaultsWhereFeedFaults : Prop :=
  ∀ (bytes : List Byte) (rest : List (Option Byte)) (τ : Timeout) (s t : State),
    s.FeedReady → s.ReceiveReady → s.decActive = false → runOps (feeds bytes) s = .next t → t.fault = true →
    t.results = s.results ++ List.replicate (bytes.length - 1) .incomplete →
      exec (.receive τ) { s with rx := { s.rx with answers := bytes.map some ++ rest } } = .next { s with
        rx := { answers := rest, reads := s.rx.reads + bytes.length }
        receivedYet := true
        fault := true }

/-- 44 R190 and 70 R265: at least one read, at most 519. -/
def Obligations.ReceiveReadsAtMost519 : Prop :=
  ∀ (τ : Timeout) (s t : State), exec (.receive τ) s = .next t →
    s.rx.reads + 1 ≤ t.rx.reads ∧ t.rx.reads ≤ s.rx.reads + 519

/-- 44 R190: the bound on later reads never cuts a frame short. -/
def Obligations.ReceiveBoundNeverCuts : Prop :=
  ∀ (c : Params) (τ : Timeout) (m : Bool) (rx : RxStream) (fuel : Nat), 518 ≤ fuel →
    receiveLoop c τ m fuel 1 (FrameRec.blank.start m) rx = receiveLoop c τ m maxLaterReads 1 (FrameRec.blank.start m) rx

/-- 70 R262 (b): the refusal of RECEIVE and FEED over one transport. -/
def Obligations.SharedTransportIsRefused : Prop :=
  ∀ s : State, s.fault = false → s.params.feedSharesRx = true →
    (s.receivedYet = true → ∀ b, exec (.feed b) s = .refused .sharedTransport) ∧
    (s.fedYet = true → ∀ τ, exec (.receive τ) s = .refused .sharedTransport)

/-- 70 R262 (b): no run of the model both feeds and receives over one transport. -/
def Obligations.TransportKeepsOneOwner : Prop :=
  State.reset.OneOwner ∧ ∀ s t : State, s.OneOwner → step s = .next t → t.OneOwner

/-! Mode Flag -/

/-- 45 R210. -/
def Obligations.SetModeWritesTheMode : Prop :=
  ∀ (m : Bool) (s : State),
    decode { word := 0x4000 ||| (if m then 1 else 0) } = .ok (.setMode m) ∧
    (s.fault = true → exec (.setMode m) s = .fault .faulted) ∧
    (s.fault = false →
      exec (.setMode m) s = .next { s with mode := m, results := s.results ++ [.ok] })

/-- 45 R212. -/
def Obligations.GetModeReadsTheMode : Prop :=
  decode { word := 0x5000 } = .ok .getMode ∧
  ∀ s : State,
    (s.fault = true → exec .getMode s = .fault .faulted) ∧
    (s.fault = false → exec .getMode s = .next { s with results := s.results ++ [.okMode s.mode] })

/-- Only SET_MODE changes `MODE` (10 R21), and no operation changes the instantiation (70 R254). -/
def Obligations.ModeAndParametersChangedOnlyHere : Prop :=
  ∀ (i : Instr) (s t : State), exec i s = .next t →
    t.params = s.params ∧ (t.mode ≠ s.mode → i = .setMode t.mode)

/-- TX is an append-only log that only ENCODE writes, RX is read by RECEIVE alone (20 R51 to R53), and results are only
added. -/
def Obligations.StreamsTouchedOnlyByTheirOperation : Prop :=
  ∀ (i : Instr) (s t : State), exec i s = .next t →
    s.tx.log <+: t.tx.log ∧ s.results <+: t.results ∧
    (t.tx ≠ s.tx → ∃ P, i = .encode P) ∧ (t.rx ≠ s.rx → ∃ τ, i = .receive τ)

/-! Escape Codec and Checksum Adapter -/

/-- 40 R100. -/
def Obligations.EscEncStuffsOneByte : Prop :=
  ∀ (b : Byte) (s : State),
    decode { word := 0x7000 ||| b.zeroExtend 16 } = .ok (.escEnc b) ∧
    (s.fault = false →
      exec (.escEnc b) s = .next { s with results := s.results ++
        [.okBytes (if b = s.params.fend then [s.params.fesc, s.params.tfend]
                   else if b = s.params.fesc then [s.params.fesc, s.params.tfesc]
                   else [b])] })

/-- 40 R102. -/
def Obligations.EscDecUnstuffsOneByte : Prop :=
  ∀ (p : Bool) (b : Byte) (s : State),
    decode { word := 0x8000 ||| (if p then 0x100 else 0) ||| b.zeroExtend 16 } = .ok (.escDec p b) ∧
    (s.fault = false →
      exec (.escDec p b) s = .next { s with results := s.results ++
        [if p = false then
            (if b = s.params.fesc then .okEscape true none else .okEscape false (some b))
          else if b = s.params.tfend then .okEscape false (some s.params.fend)
          else if b = s.params.tfesc then .okEscape false (some s.params.fesc)
          else .error .badEscape] })

/-- 41 R122. -/
def Obligations.CkComputeCoversTheFields : Prop :=
  ∀ (m : Bool) (P : PacketRecord) (s : State),
    decode { word := 0x9000 ||| (if m then 1 else 0), operands := P.operands } = .ok (.ckCompute m P) ∧
    (s.fault = false →
      exec (.ckCompute m P) s = .next { s with results := s.results ++
        [.okByte (checksum s.params m ((if m then [P.addr] else []) ++ [P.cmd, P.n] ++ P.data))] }) ∧
    (∀ a : Byte, s.fault = false → exec (.ckCompute false { P with addr := a }) s = exec (.ckCompute false P) s)

/-- 41 R124. -/
def Obligations.CkVerifyComparesTheChecksum : Prop :=
  ∀ (m : Bool) (P : Packet) (s : State),
    decode { word := 0xA000 ||| (if m then 1 else 0), operands := { P.body.operands with ck := P.ck } }
      = .ok (.ckVerify m P) ∧
    (s.fault = false →
      exec (.ckVerify m P) s = .next { s with results := s.results ++
        [.okBool (P.ck == checksum s.params m ((if m then [P.addr] else []) ++ [P.cmd, P.n] ++ P.data))] }) ∧
    (∃ ck, ∀ ck', verifyCk s.params m { P with ck := ck' } = true ↔ ck' = ck)

/-- 41 R125: the test checksum is the XOR of the covered list, and has the property `CK_DETECTS_1BIT`. -/
def Obligations.Xor8DetectsOneBit : Prop :=
  ∀ c : Params, c.ck = .xor8 →
    (∀ m L, checksum c m L = L.foldl (· ^^^ ·) 0) ∧ DetectsOneBit c

/-! Reset, results, assembler -/

/-- 70 R250. -/
def Obligations.ResetValues : Prop :=
  (∀ s : State,
    s.resetInstance.mode = s.params.addrModeReset ∧ s.resetInstance.decActive = false ∧
    s.resetInstance.dec.cnt = 0 ∧ s.resetInstance.dec.exp = 0 ∧ s.resetInstance.dec.esc = false ∧
    s.resetInstance.decFmode = false ∧ s.resetInstance.dec.data = [] ∧ s.resetInstance.fault = false ∧
    s.resetInstance.tx = s.tx ∧ s.resetInstance.rx = s.rx) ∧
  State.reset = State.reset.resetInstance ∧ State.reset.params = Config.params ∧ State.reset.tx.log = []

/-- 60 R220: the result codes. -/
def Obligations.ResultCodes : Prop :=
  (∀ v, (Result.okMode v).code = 0) ∧ (∀ P k, (Result.okPacket P k).code = 0) ∧ Result.ok.code = 0 ∧
  (∀ L, (Result.okBytes L).code = 0) ∧ (∀ p x, (Result.okEscape p x).code = 0) ∧
  (∀ v, (Result.okByte v).code = 0) ∧ (∀ v, (Result.okBool v).code = 0) ∧
  Result.incomplete.code = 1 ∧ (∀ P, (Result.complete P).code = 2) ∧
  (Result.error .notStartByte).code = 3 ∧ (Result.error .checksumMismatch).code = 4 ∧
  (Result.error .readFailed).code = 5 ∧ (Result.error .invalidLength).code = 6 ∧
  (Result.error .invalidAddress).code = 7 ∧ (Result.error .writeFailed).code = 8 ∧
  (Result.error .illegalOp).code = 9 ∧ (Result.error .badEscape).code = 10

/-- 30 R88: `FEEDS` is one FEED for each byte, in order, and `SEND` is `ENCODE`. -/
def Obligations.PseudoOperationsExpand : Prop :=
  (∀ (b : Byte) (bytes : List Byte),
    expandAsm .feeds ((b :: bytes).map fun x => .num x.toNat) = some ((b :: bytes).map .feed)) ∧
  asmOpOf "FEEDS".toList = some .feeds ∧ asmOpOf "SEND".toList = asmOpOf "ENCODE".toList ∧
  asmOpOf "ENCODE".toList = some (.op .encode)
end

