-- ==== Sys2Proof/Laws/State.lean ====
section
/-! SUPPORT. Each named update of the state, field by field, so that no later proof unfolds one. -/

namespace Sys2Proof.Machine

variable (s : State)

/-! `State.answer` -/

@[simp] theorem State.answer_params (r : Result) : (s.answer r).params = s.params := rfl
@[simp] theorem State.answer_mode (r : Result) : (s.answer r).mode = s.mode := rfl
@[simp] theorem State.answer_decActive (r : Result) : (s.answer r).decActive = s.decActive := rfl
@[simp] theorem State.answer_decFmode (r : Result) : (s.answer r).decFmode = s.decFmode := rfl
@[simp] theorem State.answer_dec (r : Result) : (s.answer r).dec = s.dec := rfl
@[simp] theorem State.answer_fault (r : Result) : (s.answer r).fault = s.fault := rfl
@[simp] theorem State.answer_rx (r : Result) : (s.answer r).rx = s.rx := rfl
@[simp] theorem State.answer_tx (r : Result) : (s.answer r).tx = s.tx := rfl
@[simp] theorem State.answer_fedYet (r : Result) : (s.answer r).fedYet = s.fedYet := rfl
@[simp] theorem State.answer_receivedYet (r : Result) : (s.answer r).receivedYet = s.receivedYet := rfl
@[simp] theorem State.answer_pending (r : Result) : (s.answer r).pending = s.pending := rfl
@[simp] theorem State.answer_results (r : Result) : (s.answer r).results = s.results ++ [r] := rfl

/-! `State.enterBadEscape` -/

@[simp] theorem State.enterBadEscape_params : (s.enterBadEscape).params = s.params := rfl
@[simp] theorem State.enterBadEscape_mode : (s.enterBadEscape).mode = s.mode := rfl
@[simp] theorem State.enterBadEscape_decActive : (s.enterBadEscape).decActive = s.decActive := rfl
@[simp] theorem State.enterBadEscape_decFmode : (s.enterBadEscape).decFmode = s.decFmode := rfl
@[simp] theorem State.enterBadEscape_dec : (s.enterBadEscape).dec = s.dec := rfl
@[simp] theorem State.enterBadEscape_fault : (s.enterBadEscape).fault = true := rfl
@[simp] theorem State.enterBadEscape_rx : (s.enterBadEscape).rx = s.rx := rfl
@[simp] theorem State.enterBadEscape_tx : (s.enterBadEscape).tx = s.tx := rfl
@[simp] theorem State.enterBadEscape_fedYet : (s.enterBadEscape).fedYet = s.fedYet := rfl
@[simp] theorem State.enterBadEscape_receivedYet : (s.enterBadEscape).receivedYet = s.receivedYet := rfl
@[simp] theorem State.enterBadEscape_pending : (s.enterBadEscape).pending = s.pending := rfl
@[simp] theorem State.enterBadEscape_results : (s.enterBadEscape).results = s.results := rfl

/-! `State.answerIllegal` -/

@[simp] theorem State.answerIllegal_params : (s.answerIllegal).params = s.params := rfl
@[simp] theorem State.answerIllegal_mode : (s.answerIllegal).mode = s.mode := rfl
@[simp] theorem State.answerIllegal_decActive : (s.answerIllegal).decActive = s.decActive := rfl
@[simp] theorem State.answerIllegal_decFmode : (s.answerIllegal).decFmode = s.decFmode := rfl
@[simp] theorem State.answerIllegal_dec : (s.answerIllegal).dec = s.dec := rfl
@[simp] theorem State.answerIllegal_fault : (s.answerIllegal).fault = s.fault := rfl
@[simp] theorem State.answerIllegal_rx : (s.answerIllegal).rx = s.rx := rfl
@[simp] theorem State.answerIllegal_tx : (s.answerIllegal).tx = s.tx := rfl
@[simp] theorem State.answerIllegal_fedYet : (s.answerIllegal).fedYet = s.fedYet := rfl
@[simp] theorem State.answerIllegal_receivedYet : (s.answerIllegal).receivedYet = s.receivedYet := rfl
@[simp] theorem State.answerIllegal_pending : (s.answerIllegal).pending = s.pending := rfl
@[simp] theorem State.answerIllegal_results : (s.answerIllegal).results = s.results ++ [.error .illegalOp] := rfl

/-! `State.resetInstance` -/

@[simp] theorem State.resetInstance_params : (s.resetInstance).params = s.params := rfl
@[simp] theorem State.resetInstance_mode : (s.resetInstance).mode = s.params.addrModeReset := rfl
@[simp] theorem State.resetInstance_decActive : (s.resetInstance).decActive = false := rfl
@[simp] theorem State.resetInstance_decFmode : (s.resetInstance).decFmode = false := rfl
@[simp] theorem State.resetInstance_dec : (s.resetInstance).dec = FrameRec.blank := rfl
@[simp] theorem State.resetInstance_fault : (s.resetInstance).fault = false := rfl
@[simp] theorem State.resetInstance_rx : (s.resetInstance).rx = s.rx := rfl
@[simp] theorem State.resetInstance_tx : (s.resetInstance).tx = s.tx := rfl
@[simp] theorem State.resetInstance_fedYet : (s.resetInstance).fedYet = false := rfl
@[simp] theorem State.resetInstance_receivedYet : (s.resetInstance).receivedYet = false := rfl
@[simp] theorem State.resetInstance_pending : (s.resetInstance).pending = s.pending := rfl
@[simp] theorem State.resetInstance_results : (s.resetInstance).results = s.results := rfl

/-! `State.issueFirst` -/

@[simp] theorem State.issueFirst_params (r : Request) : (s.issueFirst r).params = s.params := rfl
@[simp] theorem State.issueFirst_mode (r : Request) : (s.issueFirst r).mode = s.mode := rfl
@[simp] theorem State.issueFirst_decActive (r : Request) : (s.issueFirst r).decActive = s.decActive := rfl
@[simp] theorem State.issueFirst_decFmode (r : Request) : (s.issueFirst r).decFmode = s.decFmode := rfl
@[simp] theorem State.issueFirst_dec (r : Request) : (s.issueFirst r).dec = s.dec := rfl
@[simp] theorem State.issueFirst_fault (r : Request) : (s.issueFirst r).fault = s.fault := rfl
@[simp] theorem State.issueFirst_rx (r : Request) : (s.issueFirst r).rx = s.rx := rfl
@[simp] theorem State.issueFirst_tx (r : Request) : (s.issueFirst r).tx = s.tx := rfl
@[simp] theorem State.issueFirst_fedYet (r : Request) : (s.issueFirst r).fedYet = s.fedYet := rfl
@[simp] theorem State.issueFirst_receivedYet (r : Request) : (s.issueFirst r).receivedYet = s.receivedYet := rfl
@[simp] theorem State.issueFirst_pending (r : Request) : (s.issueFirst r).pending = r :: s.pending := rfl
@[simp] theorem State.issueFirst_results (r : Request) : (s.issueFirst r).results = s.results := rfl

/-! `State.writeMode` -/

@[simp] theorem State.writeMode_params (m : Bool) : (s.writeMode m).params = s.params := rfl
@[simp] theorem State.writeMode_mode (m : Bool) : (s.writeMode m).mode = m := rfl
@[simp] theorem State.writeMode_decActive (m : Bool) : (s.writeMode m).decActive = s.decActive := rfl
@[simp] theorem State.writeMode_decFmode (m : Bool) : (s.writeMode m).decFmode = s.decFmode := rfl
@[simp] theorem State.writeMode_dec (m : Bool) : (s.writeMode m).dec = s.dec := rfl
@[simp] theorem State.writeMode_fault (m : Bool) : (s.writeMode m).fault = s.fault := rfl
@[simp] theorem State.writeMode_rx (m : Bool) : (s.writeMode m).rx = s.rx := rfl
@[simp] theorem State.writeMode_tx (m : Bool) : (s.writeMode m).tx = s.tx := rfl
@[simp] theorem State.writeMode_fedYet (m : Bool) : (s.writeMode m).fedYet = s.fedYet := rfl
@[simp] theorem State.writeMode_receivedYet (m : Bool) : (s.writeMode m).receivedYet = s.receivedYet := rfl
@[simp] theorem State.writeMode_pending (m : Bool) : (s.writeMode m).pending = s.pending := rfl
@[simp] theorem State.writeMode_results (m : Bool) : (s.writeMode m).results = s.results := rfl

/-! `State.startFrame` -/

@[simp] theorem State.startFrame_params : (s.startFrame).params = s.params := rfl
@[simp] theorem State.startFrame_mode : (s.startFrame).mode = s.mode := rfl
@[simp] theorem State.startFrame_decActive : (s.startFrame).decActive = true := rfl
@[simp] theorem State.startFrame_decFmode : (s.startFrame).decFmode = s.mode := rfl
@[simp] theorem State.startFrame_dec : (s.startFrame).dec = s.dec.start s.mode := rfl
@[simp] theorem State.startFrame_fault : (s.startFrame).fault = s.fault := rfl
@[simp] theorem State.startFrame_rx : (s.startFrame).rx = s.rx := rfl
@[simp] theorem State.startFrame_tx : (s.startFrame).tx = s.tx := rfl
@[simp] theorem State.startFrame_fedYet : (s.startFrame).fedYet = s.fedYet := rfl
@[simp] theorem State.startFrame_receivedYet : (s.startFrame).receivedYet = s.receivedYet := rfl
@[simp] theorem State.startFrame_pending : (s.startFrame).pending = s.pending := rfl
@[simp] theorem State.startFrame_results : (s.startFrame).results = s.results := rfl

/-! `State.abandonFrame` -/

@[simp] theorem State.abandonFrame_params : (s.abandonFrame).params = s.params := rfl
@[simp] theorem State.abandonFrame_mode : (s.abandonFrame).mode = s.mode := rfl
@[simp] theorem State.abandonFrame_decActive : (s.abandonFrame).decActive = false := rfl
@[simp] theorem State.abandonFrame_decFmode : (s.abandonFrame).decFmode = s.decFmode := rfl
@[simp] theorem State.abandonFrame_dec : (s.abandonFrame).dec = { s.dec.idle with data := [] } := rfl
@[simp] theorem State.abandonFrame_fault : (s.abandonFrame).fault = s.fault := rfl
@[simp] theorem State.abandonFrame_rx : (s.abandonFrame).rx = s.rx := rfl
@[simp] theorem State.abandonFrame_tx : (s.abandonFrame).tx = s.tx := rfl
@[simp] theorem State.abandonFrame_fedYet : (s.abandonFrame).fedYet = s.fedYet := rfl
@[simp] theorem State.abandonFrame_receivedYet : (s.abandonFrame).receivedYet = s.receivedYet := rfl
@[simp] theorem State.abandonFrame_pending : (s.abandonFrame).pending = s.pending := rfl
@[simp] theorem State.abandonFrame_results : (s.abandonFrame).results = s.results := rfl

variable (T : FrameRec)

/-! `FrameRec.start` -/

@[simp] theorem FrameRec.start_cnt (m : Bool) : (T.start m).cnt = 1 := rfl
@[simp] theorem FrameRec.start_exp (m : Bool) : (T.start m).exp = BitVec.ofNat 9 (headerTotal m) := rfl
@[simp] theorem FrameRec.start_esc (m : Bool) : (T.start m).esc = false := rfl
@[simp] theorem FrameRec.start_addr (m : Bool) : (T.start m).addr = T.addr := rfl
@[simp] theorem FrameRec.start_cmd (m : Bool) : (T.start m).cmd = T.cmd := rfl
@[simp] theorem FrameRec.start_len (m : Bool) : (T.start m).len = T.len := rfl
@[simp] theorem FrameRec.start_data (m : Bool) : (T.start m).data = [] := rfl
@[simp] theorem FrameRec.start_ck (m : Bool) : (T.start m).ck = T.ck := rfl

/-! `FrameRec.idle` -/

@[simp] theorem FrameRec.idle_cnt : (T.idle).cnt = 0 := rfl
@[simp] theorem FrameRec.idle_exp : (T.idle).exp = 0 := rfl
@[simp] theorem FrameRec.idle_esc : (T.idle).esc = false := rfl
@[simp] theorem FrameRec.idle_addr : (T.idle).addr = T.addr := rfl
@[simp] theorem FrameRec.idle_cmd : (T.idle).cmd = T.cmd := rfl
@[simp] theorem FrameRec.idle_len : (T.idle).len = T.len := rfl
@[simp] theorem FrameRec.idle_data : (T.idle).data = T.data := rfl
@[simp] theorem FrameRec.idle_ck : (T.idle).ck = T.ck := rfl

/-! `State.resetWith` and `State.withFetchWord` -/

@[simp] theorem State.resetWith_params (p : Params) : (State.resetWith p).params = p := rfl
@[simp] theorem State.resetWith_mode (p : Params) : (State.resetWith p).mode = p.addrModeReset := rfl
@[simp] theorem State.resetWith_decActive (p : Params) : (State.resetWith p).decActive = false := rfl
@[simp] theorem State.resetWith_dec (p : Params) : (State.resetWith p).dec = FrameRec.blank := rfl
@[simp] theorem State.resetWith_fault (p : Params) : (State.resetWith p).fault = false := rfl
@[simp] theorem State.resetWith_pending (p : Params) : (State.resetWith p).pending = [] := rfl
@[simp] theorem State.resetWith_results (p : Params) : (State.resetWith p).results = [] := rfl

theorem State.withFetchWord_eq (nbits w : Nat) :
    s.withFetchWord nbits w = { s with pending := tableRequest nbits w :: s.pending } := rfl

end Sys2Proof.Machine
end

