-- ==== Sys2Proof/Laws/Ops.lean ====
section
/-! SUPPORT. What each shared operation can do, once: the `FAULT` gate, the transport, the step. -/

namespace Sys2Proof.Machine

/-- Behind the gate an operation answers a next state exactly when `FAULT` is 0 and the operation itself does. -/
theorem State.ifLive_eq_next {s t : State} {k : Host.Outcome State Fault Refusal} :
    s.ifLive k = .next t ↔ s.fault = false ∧ k = .next t := by
  unfold State.ifLive
  cases s.fault <;> simp

@[simp] theorem State.ifLive_of_live {s : State} {k : Host.Outcome State Fault Refusal} (h : s.fault = false) :
    s.ifLive k = k := by
  simp [State.ifLive, h]

@[simp] theorem State.ifLive_of_fault {s : State} {k : Host.Outcome State Fault Refusal} (h : s.fault = true) :
    s.ifLive k = .fault .faulted := by
  simp [State.ifLive, h]

/-- Behind the gate and a refusal, an operation answers a next state exactly when neither stops it. -/
theorem State.ifLive_unless_eq_next {s t u : State} {barred : Bool} {r : Refusal} :
    s.ifLive (if barred then .refused r else .next u) = .next t ↔ s.fault = false ∧ barred = false ∧ u = t := by
  rw [State.ifLive_eq_next]
  cases barred <;> simp

@[simp] theorem rxRead_cons (t : Timeout) (a : Option Byte) (rest : List (Option Byte)) (n : Nat) :
    rxRead t { answers := a :: rest, reads := n } = (a, { answers := rest, reads := n + 1 }) := rfl

/-- A read counts once. -/
theorem rxRead_reads (t : Timeout) (r : RxStream) : (rxRead t r).2.reads = r.reads + 1 := by
  unfold rxRead
  split <;> rfl

@[simp] theorem txAnswer_cons (log : List Byte) (a : TxAnswer) (rest : List TxAnswer) (n : Nat) :
    txAnswer { log := log, answers := a :: rest, writes := n } =
      (a, { log := log, answers := rest, writes := n + 1 }) := rfl

/-- Taking an answer writes nothing. -/
theorem txAnswer_log (x : TxStream) : (txAnswer x).2.log = x.log := by
  unfold txAnswer
  split <;> rfl

theorem txWrite_eq (bytes : List Byte) (x : TxStream) :
    txWrite bytes x = ((txAnswer x).1,
      { (txAnswer x).2 with log := x.log ++ sentBytes (txAnswer x).1 bytes }) := by
  simp [txWrite, txAnswer_log]

theorem State.nextRequest_eq_some {s s' : State} {r : Request} :
    s.nextRequest = some (r, s') ↔ ∃ rest, s.pending = r :: rest ∧ s' = { s with pending := rest } := by
  unfold State.nextRequest
  split <;> simp_all [eq_comm]

/-- Everything a step can do: wait, reject an illegal word, or run the operation of a legal one. -/
theorem step_eq_next {s t : State} (h : step s = .next t) :
    s.fault = false ∧
      ((s.pending = [] ∧ t = s) ∨
        ∃ r rest, s.pending = r :: rest ∧
          ((∃ e, decode r = .error e ∧ t = ({ s with pending := rest } : State).answerIllegal) ∨
            ∃ i, decode r = .ok i ∧ exec i { s with pending := rest } = .next t)) := by
  obtain ⟨hf, h⟩ := State.ifLive_eq_next.1 h
  refine ⟨hf, ?_⟩
  cases hp : s.pending with
  | nil => simp_all [State.nextRequest]
  | cons r rest =>
    refine .inr ⟨r, rest, rfl, ?_⟩
    simp only [State.nextRequest, hp] at h
    cases hd : decode r with
    | error e => simp_all
    | ok i => simp_all

end Sys2Proof.Machine
end

