-- ==== Sys2Proof/Laws/Checksum.lean ====
section
/-! SUPPORT. The Checksum Adapter. -/

namespace Sys2Proof.Machine

theorem verifyCk_iff (c : Params) (m : Bool) (P : Packet) : verifyCk c m P = true ↔ P.ck = computeCk c m P.body := by
  simp [verifyCk]

@[simp] theorem cov_off (P : PacketRecord) : cov false P = P.cmd :: P.n :: P.data := rfl

@[simp] theorem cov_on (P : PacketRecord) : cov true P = P.addr :: P.cmd :: P.n :: P.data := rfl

@[simp] theorem body_withCk (P : PacketRecord) (ck : Byte) : (P.withCk ck).body = P := rfl

@[simp] theorem record_operands (P : PacketRecord) : P.operands.record = P := rfl

theorem xor8_append (L L' : List Byte) : xor8 (L ++ L') = xor8 L ^^^ xor8 L' := by
  have h : ∀ (K : List Byte) (a : Byte), K.foldl (· ^^^ ·) a = a ^^^ xor8 K := by
    intro K
    induction K with
    | nil => intro a; simp [xor8]
    | cons k K ih =>
      intro a
      simp only [xor8, List.foldl_cons] at ih ⊢
      rw [ih, ih (0 ^^^ k)]
      simp [BitVec.xor_assoc]
  rw [xor8, List.foldl_append, h L']
  rfl

end Sys2Proof.Machine
end

