-- ==== Sys2Proof/Laws/Decode.lean ====
section
/-! SUPPORT. Which row of the operation map each encoded word selects, and decoding once the row is known. -/

namespace Sys2Proof

/-- Decoding once the selected row is known. -/
theorem decode_of_selects {r : Request} {op : Op} (h : selectOp r.word = some op) :
    decode r = .ok (instrOf op r.word r.operands) := by
  simp [decode, h]

/-- Decoding of a word that selects no row. -/
theorem decode_of_selects_none {r : Request} (h : selectOp r.word = none) :
    decode r = .error (illegalReason r.word) := by
  simp [decode, h]

/-- A word decodes to an operation only through a row it selects. -/
theorem selects_of_decode {r : Request} {i : Instr} (h : decode r = .ok i) :
    ∃ op, selectOp r.word = some op ∧ i = instrOf op r.word r.operands := by
  cases hs : selectOp r.word with
  | none => simp [decode, hs] at h
  | some op =>
    rw [decode_of_selects hs] at h
    exact ⟨op, rfl, (Except.ok.inj h).symm⟩

theorem selectOp_feed (b : Byte) : selectOp (0x1000 ||| b.zeroExtend 16) = some .feed := by
  revert b; decide

theorem selectOp_setMode (m : Bool) : selectOp (0x4000 ||| modeBit m) = some .setMode := by
  revert m; decide

theorem selectOp_escEnc (b : Byte) : selectOp (0x7000 ||| b.zeroExtend 16) = some .escEnc := by
  revert b; decide

theorem selectOp_escDec (p : Bool) (b : Byte) :
    selectOp (0x8000 ||| pendingBit p ||| b.zeroExtend 16) = some .escDec := by
  revert p b; decide

theorem selectOp_ckCompute (m : Bool) : selectOp (0x9000 ||| modeBit m) = some .ckCompute := by
  revert m; decide

theorem selectOp_ckVerify (m : Bool) : selectOp (0xA000 ||| modeBit m) = some .ckVerify := by
  revert m; decide

end Sys2Proof
end

