-- ==== Sys2Proof/Laws/Escape.lean ====
section
/-! SUPPORT. The Escape Codec: the well-formedness of the constants as inequalities, and one lemma for each function. -/

namespace Sys2Proof

theorem Params.fesc_ne_fend (c : Params) : c.fesc ≠ c.fend := by
  have h := c.wf
  simp [constantsWellFormed] at h
  tauto

theorem Params.tfend_ne_tfesc (c : Params) : c.tfend ≠ c.tfesc := by
  have h := c.wf
  simp [constantsWellFormed] at h
  tauto

theorem Params.tfend_ne_fend (c : Params) : c.tfend ≠ c.fend := by
  have h := c.wf
  simp [constantsWellFormed] at h
  tauto

theorem Params.tfesc_ne_fend (c : Params) : c.tfesc ≠ c.fend := by
  have h := c.wf
  simp [constantsWellFormed] at h
  tauto

namespace Machine

variable (c : Params)

@[simp] theorem escEnc_fend : escEnc c c.fend = [c.fesc, c.tfend] := by simp [escEnc]

@[simp] theorem escEnc_fesc : escEnc c c.fesc = [c.fesc, c.tfesc] := by simp [escEnc, c.fesc_ne_fend]

theorem escEnc_plain {b : Byte} (h : b ≠ c.fend) (h' : b ≠ c.fesc) : escEnc c b = [b] := by simp [escEnc, h, h']

@[simp] theorem escDec_false_fesc : escDec c false c.fesc = (true, .nothing) := by simp [escDec]

theorem escDec_false_plain {b : Byte} (h : b ≠ c.fesc) : escDec c false b = (false, .byte b) := by simp [escDec, h]

@[simp] theorem escDec_true_tfend : escDec c true c.tfend = (false, .byte c.fend) := by simp [escDec]

@[simp] theorem escDec_true_tfesc : escDec c true c.tfesc = (false, .byte c.fesc) := by
  simp [escDec, c.tfend_ne_tfesc.symm]

theorem escDec_true_bad {b : Byte} (h : b ≠ c.tfend) (h' : b ≠ c.tfesc) : escDec c true b = (false, .bad) := by
  simp [escDec, h, h']

/-- Everything one decoding step can do: a marker awaits its operand, a logical byte results, or the operand is
undefined. -/
theorem escDec_cases (p : Bool) (b : Byte) :
    (p = false ∧ b = c.fesc ∧ escDec c p b = (true, .nothing)) ∨
    (∃ x, escDec c p b = (false, .byte x)) ∨
    (p = true ∧ b ≠ c.tfend ∧ b ≠ c.tfesc ∧ escDec c p b = (false, .bad)) := by
  cases p
  · by_cases h : b = c.fesc
    · simp [escDec, h]
    · simp [escDec, h]
  · by_cases h : b = c.tfend
    · simp [h]
    · by_cases h' : b = c.tfesc
      · simp [h']
      · simp [escDec, h, h']

@[simp] theorem stuff_nil : stuff c [] = [] := rfl

@[simp] theorem stuff_cons (b : Byte) (L : List Byte) : stuff c (b :: L) = escEnc c b ++ stuff c L := rfl

end Machine

end Sys2Proof
end

