-- ==== Sys2Proof/Laws/Decoder.lean ====
section
/-! SUPPORT. The field dispatch by position, and everything a FEED can do. -/

namespace Sys2Proof.Machine

variable (T : FrameRec) (m : Bool) (x : Byte)

theorem FrameRec.place_addr : T.place true 1 x = { T with addr := x.truncate 7 } := by
  simp [FrameRec.place]

theorem FrameRec.place_cmd : T.place m (1 + m.toNat) x = { T with cmd := x } := by
  cases m <;> simp [FrameRec.place]

theorem FrameRec.place_len :
    T.place m (lengthPos m) x = { T with len := x, exp := BitVec.ofNat 9 (headerTotal m + x.toNat) } := by
  cases m <;> simp [FrameRec.place, lengthPos]

/-- From the first data position on, only the last two arms of the dispatch are open. -/
theorem FrameRec.place_late {pos : Nat} (h : dataPos m ≤ pos) :
    T.place m pos x =
      if pos + 2 ≤ T.exp.toNat then { T with data := T.data ++ [x] } else { T with ck := x } := by
  unfold FrameRec.place
  unfold dataPos at h
  rw [if_neg (by simp; omega), if_neg (by omega), if_neg (by unfold lengthPos; omega)]

theorem FrameRec.place_data {pos : Nat} (h : dataPos m ≤ pos) (h' : pos + 2 ≤ T.exp.toNat) :
    T.place m pos x = { T with data := T.data ++ [x] } := by
  rw [T.place_late m x h, if_pos h']

theorem FrameRec.place_ck {pos : Nat} (h : dataPos m ≤ pos) (h' : T.exp.toNat < pos + 2) :
    T.place m pos x = { T with ck := x } := by
  rw [T.place_late m x h, if_neg (by omega)]

/-- Everything the field dispatch can do, by the position it is given. -/
theorem FrameRec.place_cases (pos : Nat) :
    (m = true ∧ pos = 1 ∧ T.place m pos x = { T with addr := x.truncate 7 }) ∨
    (pos = 1 + m.toNat ∧ T.place m pos x = { T with cmd := x }) ∨
    (pos = lengthPos m ∧ T.place m pos x = { T with len := x, exp := BitVec.ofNat 9 (headerTotal m + x.toNat) }) ∨
    (pos + 2 ≤ T.exp.toNat ∧ T.place m pos x = { T with data := T.data ++ [x] }) ∨
    (T.exp.toNat < pos + 2 ∧ T.place m pos x = { T with ck := x }) := by
  unfold FrameRec.place
  split_ifs with h1 h2 h3 h4
  · simp_all
  · simp_all
  · simp_all
  · simp_all
  · simp_all

@[simp] theorem FrameRec.place_cnt (pos : Nat) : (T.place m pos x).cnt = T.cnt := by
  obtain ⟨-, -, h⟩ | ⟨-, h⟩ | ⟨-, h⟩ | ⟨-, h⟩ | ⟨-, h⟩ := T.place_cases m x pos <;> rw [h]

@[simp] theorem FrameRec.place_esc (pos : Nat) : (T.place m pos x).esc = T.esc := by
  obtain ⟨-, -, h⟩ | ⟨-, h⟩ | ⟨-, h⟩ | ⟨-, h⟩ | ⟨-, h⟩ := T.place_cases m x pos <;> rw [h]

@[simp] theorem FrameRec.consume_esc : (T.consume m x).esc = T.esc := by
  simp [FrameRec.consume]

theorem FrameRec.consume_cnt : (T.consume m x).cnt = BitVec.ofNat 9 (T.cnt.toNat + 1) := rfl

/-- Everything a logical byte can do while Receiving: complete the frame, or leave it in progress. -/
theorem State.feedLogical_eq (s : State) (x : Byte) :
    ((s.dec.consume s.decFmode x).finished = true ∧
      s.feedLogical x = ({ s with dec := s.dec.consume s.decFmode x } : State).completeFrame) ∨
    ((s.dec.consume s.decFmode x).finished = false ∧
      s.feedLogical x = ({ s with dec := s.dec.consume s.decFmode x } : State).answer .incomplete) := by
  unfold State.feedLogical
  cases h : (s.dec.consume s.decFmode x).finished <;> simp [h]

theorem State.feedReceiving_of_bad {s : State} {b : Byte} {p' : Bool}
    (h : escDec s.params s.dec.esc b = (p', .bad)) : s.feedReceiving b = s.enterBadEscape := by
  rw [State.feedReceiving, h]

theorem State.feedReceiving_of_nothing {s : State} {b : Byte} {p' : Bool}
    (h : escDec s.params s.dec.esc b = (p', .nothing)) :
    s.feedReceiving b = ({ s with dec := { s.dec with esc := p' } } : State).answer .incomplete := by
  rw [State.feedReceiving, h]

theorem State.feedReceiving_of_byte {s : State} {b y : Byte} {p' : Bool}
    (h : escDec s.params s.dec.esc b = (p', .byte y)) :
    s.feedReceiving b = ({ s with dec := { s.dec with esc := p' } } : State).feedLogical y := by
  rw [State.feedReceiving, h]

theorem State.feedByte_active {s : State} (b : Byte) (h : s.decActive = true) :
    s.feedByte b = ({ s with fedYet := true } : State).feedReceiving b := by
  simp [State.feedByte, h]

theorem State.feedByte_idle {s : State} (b : Byte) (h : s.decActive = false) :
    s.feedByte b = ({ s with fedYet := true } : State).feedIdle b := by
  simp [State.feedByte, h]

/-- Everything a FEED that is not stopped can do: reject a byte while Idle, start a frame, await an escape operand, consume a
logical byte, or enter the faulted state. -/
theorem State.feedByte_cases (s : State) (b : Byte) :
    (s.decActive = false ∧ b ≠ s.params.fend ∧
      s.feedByte b = ({ s with fedYet := true } : State).answer (.error .notStartByte)) ∨
    (s.decActive = false ∧ b = s.params.fend ∧
      s.feedByte b = ({ s with fedYet := true } : State).startFrame.answer .incomplete) ∨
    (s.decActive = true ∧ s.dec.esc = false ∧ b = s.params.fesc ∧
      s.feedByte b = ({ s with fedYet := true, dec := { s.dec with esc := true } } : State).answer .incomplete) ∨
    (s.decActive = true ∧ ∃ y, escDec s.params s.dec.esc b = (false, .byte y) ∧
      s.feedByte b = ({ s with fedYet := true, dec := { s.dec with esc := false } } : State).feedLogical y) ∨
    (s.decActive = true ∧ s.dec.esc = true ∧ b ≠ s.params.tfend ∧ b ≠ s.params.tfesc ∧
      s.feedByte b = ({ s with fedYet := true } : State).enterBadEscape) := by
  obtain ha | ha := Bool.eq_false_or_eq_true s.decActive
  · rw [State.feedByte_active b ha]
    obtain ⟨hp, hb, h⟩ | ⟨y, h⟩ | ⟨hp, hb, hb', h⟩ := escDec_cases s.params s.dec.esc b
    · exact .inr (.inr (.inl ⟨ha, hp, hb, State.feedReceiving_of_nothing (s := { s with fedYet := true }) h⟩))
    · exact .inr (.inr (.inr (.inl ⟨ha, y, h, State.feedReceiving_of_byte (s := { s with fedYet := true }) h⟩)))
    · exact .inr (.inr (.inr (.inr
        ⟨ha, hp, hb, hb', State.feedReceiving_of_bad (s := { s with fedYet := true }) h⟩)))
  · rw [State.feedByte_idle b ha, State.feedIdle]
    by_cases hb : b = s.params.fend <;> simp [hb, ha]

/-- FEED answers a next state exactly when neither gate stops it. -/
theorem execFeed_eq_next {b : Byte} {s t : State} :
    execFeed b s = .next t ↔ s.fault = false ∧ s.feedBarred = false ∧ s.feedByte b = t :=
  State.ifLive_unless_eq_next

end Sys2Proof.Machine
end

