-- ==== Sys2Proof/Laws/Encoder.lean ====
section
/-! SUPPORT. Everything ENCODE can do. -/

namespace Sys2Proof.Machine

theorem State.transmit_eq (s : State) (frame : List Byte) :
    s.transmit frame = ({ s with tx := (txWrite frame s.tx).2 } : State).answer (writeResult (txAnswer s.tx).1) := by
  simp [State.transmit, txWrite_eq]

/-- The encoder's check passes exactly on the packets of 42 R131. -/
theorem encodeError_eq_none {m : Bool} {P : PacketRecord} : encodeError m P = none ↔ P.wellFormed m = true := by
  unfold encodeError PacketRecord.wellFormed
  cases m <;> simp
  split_ifs <;> simp_all

/-- Everything ENCODE can do: answer the first violated constraint with nothing written, or write the frame. -/
theorem State.encodePacket_cases (s : State) (P : PacketRecord) :
    (P.data.length ≠ P.n.toNat ∧ s.encodePacket P = s.answer (.error .invalidLength)) ∨
    (P.data.length = P.n.toNat ∧ s.mode = true ∧ 0x7F < P.addr.toNat ∧
      s.encodePacket P = s.answer (.error .invalidAddress)) ∨
    (P.wellFormed s.mode = true ∧ s.encodePacket P = s.transmit (wireFrame s.params s.mode P)) := by
  cases he : encodeError s.mode P with
  | none => exact .inr (.inr ⟨encodeError_eq_none.1 he, by simp [State.encodePacket, he]⟩)
  | some kind =>
    unfold encodeError at he
    split_ifs at he with h1 h2
    · exact .inl ⟨h1, by simp [State.encodePacket, encodeError, h1]⟩
    · simp at h1 h2
      exact .inr (.inl ⟨h1, h2.1, h2.2, by simp [State.encodePacket, encodeError, h1, h2]⟩)

theorem execEncode_eq_next {P : PacketRecord} {s t : State} :
    execEncode P s = .next t ↔ s.fault = false ∧ s.encodePacket P = t := by
  simp [execEncode, State.ifLive_eq_next]

end Sys2Proof.Machine
end

