-- ==== Sys2Proof/Laws/Invariant.lean ====
section
/-! SUPPORT. A frame in progress (spec/10_state.md R29) under one logical byte: what both decoders' proofs rest on. -/

namespace Sys2Proof.Machine

theorem FrameRec.finished_iff (T : FrameRec) : T.finished = true ↔ T.cnt.toNat = T.exp.toNat := by
  simp [FrameRec.finished, BitVec.toNat_eq]

theorem FrameRec.not_finished_iff (T : FrameRec) : T.finished = false ↔ T.cnt.toNat ≠ T.exp.toNat := by
  simp [FrameRec.finished, BitVec.toNat_eq]

theorem count_toNat {n : Nat} (h : n < 512) : (BitVec.ofNat 9 n).toNat = n := by simp; omega

/-- The frame-start values are a frame in progress (43 R152). -/
theorem FrameRec.start_inProgress (T : FrameRec) (m : Bool) : (T.start m).InProgress m := by
  cases m <;> simp [FrameRec.InProgress, headerTotal, lengthPos]

variable {T : FrameRec} {m : Bool}

/-- Below the length position a logical byte goes to the address or the command, and nothing else but `CNT` changes. -/
theorem FrameRec.consume_header (h : T.InProgress m) (hc : T.cnt.toNat < lengthPos m) (x : Byte) :
    T.consume m x =
      if m && T.cnt.toNat == 1 then { T with addr := x.truncate 7, cnt := BitVec.ofNat 9 (T.cnt.toNat + 1) }
      else { T with cmd := x, cnt := BitVec.ofNat 9 (T.cnt.toNat + 1) } := by
  obtain ⟨⟨h1, -, -⟩, -⟩ := h
  unfold FrameRec.consume FrameRec.place
  cases m
  · simp [lengthPos] at *
    rw [if_pos (by omega)]
    exact ⟨rfl, rfl, rfl, rfl, rfl, rfl, rfl⟩
  · simp [lengthPos] at *
    split_ifs <;> first | rfl | omega

/-- At the length position the byte fixes the expected total (43 R157). -/
theorem FrameRec.consume_length (hc : T.cnt.toNat = lengthPos m) (x : Byte) :
    T.consume m x = { T with
      len := x
      exp := BitVec.ofNat 9 (headerTotal m + x.toNat)
      cnt := BitVec.ofNat 9 (T.cnt.toNat + 1) } := by
  simp only [FrameRec.consume, hc, FrameRec.place_len]

/-- From the first data position to the last the byte is appended (43 R158). -/
theorem FrameRec.consume_data (hc : lengthPos m < T.cnt.toNat) (he : T.cnt.toNat + 2 ≤ T.exp.toNat) (x : Byte) :
    T.consume m x = { T with data := T.data ++ [x], cnt := BitVec.ofNat 9 (T.cnt.toNat + 1) } := by
  simp only [FrameRec.consume]
  rw [FrameRec.place_data _ _ _ (by unfold dataPos; unfold lengthPos at hc; omega) he]

/-- At the last position the byte is the checksum (43 R159). -/
theorem FrameRec.consume_checksum (hc : lengthPos m < T.cnt.toNat) (he : T.exp.toNat < T.cnt.toNat + 2) (x : Byte) :
    T.consume m x = { T with ck := x, cnt := BitVec.ofNat 9 (T.cnt.toNat + 1) } := by
  simp only [FrameRec.consume]
  rw [FrameRec.place_ck _ _ _ (by unfold dataPos; unfold lengthPos at hc; omega) he]

/-- A frame is finished exactly by the byte at its last position, which is past the length byte, and then the data field
holds as many bytes as the length field says (43 R160, R161). -/
theorem FrameRec.consume_finished (h : T.InProgress m) (x : Byte) :
    (T.consume m x).finished = true ↔ T.cnt.toNat + 1 = T.exp.toNat := by
  obtain ⟨⟨h1, h2, h3⟩, h4, h5, -, -⟩ := id h
  have hx := x.isLt
  have hm := m.toNat_le
  rw [FrameRec.finished_iff]
  obtain hc | hc | hc := Nat.lt_trichotomy T.cnt.toNat (lengthPos m)
  · rw [FrameRec.consume_header h hc]
    split_ifs <;> simp only <;> rw [count_toNat (by omega)]
  · rw [FrameRec.consume_length hc]
    simp only
    rw [count_toNat (by omega), count_toNat (by simp [headerTotal]; omega)]
    have := h4 (by omega)
    simp [headerTotal, lengthPos] at *
    omega
  · obtain he | he := Nat.lt_or_ge T.exp.toNat (T.cnt.toNat + 2)
    · rw [FrameRec.consume_checksum hc he]
      simp only
      rw [count_toNat (by omega)]
    · rw [FrameRec.consume_data hc he]
      simp only
      rw [count_toNat (by omega)]

/-- The last position is past the length byte, and the data is complete there. -/
theorem FrameRec.last_position (h : T.InProgress m) (he : T.cnt.toNat + 1 = T.exp.toNat) :
    lengthPos m < T.cnt.toNat ∧ T.data.length = T.len.toNat := by
  obtain ⟨⟨h1, h2, h3⟩, h4, h5, h6, -⟩ := h
  have hc : lengthPos m < T.cnt.toNat := by
    by_contra hh
    have := h4 (by omega)
    simp [headerTotal, lengthPos] at *
    omega
  refine ⟨hc, ?_⟩
  have := h5 hc
  rw [h6 hc]
  simp [headerTotal, lengthPos] at *
  omega

/-- A logical byte that does not finish a frame in progress leaves a frame in progress (10 R29). -/
theorem FrameRec.consume_inProgress (h : T.InProgress m) (x : Byte) (hf : T.cnt.toNat + 1 ≠ T.exp.toNat) :
    (T.consume m x).InProgress m := by
  obtain ⟨⟨h1, h2, h3⟩, h4, h5, h6, h7⟩ := id h
  have hx := x.isLt
  have hm := m.toNat_le
  obtain hc | hc | hc := Nat.lt_trichotomy T.cnt.toNat (lengthPos m)
  · have e4 := h4 (by omega)
    have e7 := h7 (by omega)
    rw [FrameRec.consume_header h hc]
    unfold headerTotal lengthPos at *
    split_ifs <;> simp only [FrameRec.InProgress, headerTotal, lengthPos] <;> rw [count_toNat (by omega)] <;>
      refine ⟨⟨?_, ?_, ?_⟩, fun _ => ?_, fun _ => ?_, fun _ => ?_, fun _ => ?_⟩ <;> omega
  · have e7 := h7 (by omega)
    rw [FrameRec.consume_length hc]
    unfold headerTotal lengthPos at *
    simp only [FrameRec.InProgress, headerTotal, lengthPos]
    rw [count_toNat (by omega), count_toNat (by omega)]
    refine ⟨⟨?_, ?_, ?_⟩, fun _ => ?_, fun _ => ?_, fun _ => ?_, fun _ => ?_⟩ <;> omega
  · have e5 := h5 hc
    have e6 := h6 hc
    rw [FrameRec.consume_data hc (by omega)]
    unfold headerTotal lengthPos at *
    simp only [FrameRec.InProgress, headerTotal, lengthPos, List.length_append, List.length_singleton]
    rw [count_toNat (by omega)]
    refine ⟨⟨?_, ?_, ?_⟩, fun _ => ?_, fun _ => ?_, fun _ => ?_, fun _ => ?_⟩ <;> omega

/-- The pending escape takes no part in a frame's being in progress. -/
theorem FrameRec.inProgress_esc (h : T.InProgress m) (e : Bool) : ({ T with esc := e } : FrameRec).InProgress m := h

end Sys2Proof.Machine
end

