-- ==== Sys2Proof/Laws/PerInstr.lean ====
section
/-! SUPPORT. One lemma for each operation: its encoded word selects its own row of the operation map, and no other. -/

namespace Sys2Proof

/-- The row of the operation map an operation belongs to. -/
def Laws.OpWord.opOf : Instr → Op
  | .feed _ => .feed
  | .encode _ => .encode
  | .receive _ => .receive
  | .setMode _ => .setMode
  | .getMode => .getMode
  | .decReset => .decReset
  | .escEnc _ => .escEnc
  | .escDec _ _ => .escDec
  | .ckCompute _ _ => .ckCompute
  | .ckVerify _ _ => .ckVerify

/-- The word of an operation selects the operation's own row (30 R82). -/
def Laws.OpWord.Statement (i : Instr) : Prop :=
  selectOp (encode i).word = some (Laws.OpWord.opOf i)

theorem Laws.OpWord.feed (b : Byte) : Laws.OpWord.Statement (.feed b) := selectOp_feed b

theorem Laws.OpWord.encode (P : PacketRecord) : Laws.OpWord.Statement (.encode P) :=
  show selectOp 0x2000 = some .encode by decide

theorem Laws.OpWord.receive (t : Timeout) : Laws.OpWord.Statement (.receive t) :=
  show selectOp 0x3000 = some .receive by decide

theorem Laws.OpWord.setMode (m : Bool) : Laws.OpWord.Statement (.setMode m) := selectOp_setMode m

theorem Laws.OpWord.getMode : Laws.OpWord.Statement .getMode :=
  show selectOp 0x5000 = some .getMode by decide

theorem Laws.OpWord.decReset : Laws.OpWord.Statement .decReset :=
  show selectOp 0x6000 = some .decReset by decide

theorem Laws.OpWord.escEnc (b : Byte) : Laws.OpWord.Statement (.escEnc b) := selectOp_escEnc b

theorem Laws.OpWord.escDec (p : Bool) (b : Byte) : Laws.OpWord.Statement (.escDec p b) := selectOp_escDec p b

theorem Laws.OpWord.ckCompute (m : Bool) (P : PacketRecord) : Laws.OpWord.Statement (.ckCompute m P) :=
  selectOp_ckCompute m

theorem Laws.OpWord.ckVerify (m : Bool) (P : Packet) : Laws.OpWord.Statement (.ckVerify m P) :=
  selectOp_ckVerify m

end Sys2Proof
end

