-- ==== Sys2Proof/Laws/Receive.lean ====
section
/-! SUPPORT. The loop of RECEIVE by the answer of its next read, and RECEIVE's effect on the state. -/

namespace Sys2Proof.Machine

variable (c : Params) (t : Timeout) (m : Bool) (fuel k : Nat) (T : FrameRec) (rx : RxStream)

theorem receiveLoop_none {rx' : RxStream} (h : rxRead t rx = (none, rx')) :
    receiveLoop c t m (fuel + 1) k T rx = (.result (.error .readFailed), rx') := by
  simp [receiveLoop, h]

/-- Everything one turn of the loop does with a byte: await the operand, fault, end the frame, or go on. -/
theorem receiveLoop_some {rx' : RxStream} {b : Byte} (h : rxRead t rx = (some b, rx')) :
    (T.esc = false ∧ b = c.fesc ∧
      receiveLoop c t m (fuel + 1) k T rx = receiveLoop c t m fuel (k + 1) { T with esc := true } rx') ∨
    (∃ x, escDec c T.esc b = (false, .byte x) ∧
      ((({ T with esc := false } : FrameRec).consume m x).finished = true ∧
          receiveLoop c t m (fuel + 1) k T rx =
            (.result (receiveEnd c m (k + 1) (({ T with esc := false } : FrameRec).consume m x)), rx') ∨
        (({ T with esc := false } : FrameRec).consume m x).finished = false ∧
          receiveLoop c t m (fuel + 1) k T rx =
            receiveLoop c t m fuel (k + 1) (({ T with esc := false } : FrameRec).consume m x) rx')) ∨
    (T.esc = true ∧ b ≠ c.tfend ∧ b ≠ c.tfesc ∧
      receiveLoop c t m (fuel + 1) k T rx = (.badEscape, rx')) := by
  obtain ⟨hp, hb, he⟩ | ⟨x, he⟩ | ⟨hp, hb, hb', he⟩ := escDec_cases c T.esc b
  · exact .inl ⟨hp, hb, by simp [receiveLoop, h, he]⟩
  · refine .inr (.inl ⟨x, he, ?_⟩)
    cases hf : (({ T with esc := false } : FrameRec).consume m x).finished <;> simp [receiveLoop, h, he, hf]
  · exact .inr (.inr ⟨hp, hb, hb', by simp [receiveLoop, h, he]⟩)

theorem State.receivePacket_eq (s : State) (t : Timeout) :
    s.receivePacket t =
      ({ s with rx := (receiveFrame s.params t s.mode s.rx).2, receivedYet := true } : State).endReceive
        (receiveFrame s.params t s.mode s.rx).1 := rfl

/-- RECEIVE answers a next state exactly when neither gate stops it. -/
theorem execReceive_eq_next {t : Timeout} {s u : State} :
    execReceive t s = .next u ↔ s.fault = false ∧ s.receiveBarred = false ∧ s.receivePacket t = u :=
  State.ifLive_unless_eq_next

end Sys2Proof.Machine
end

