-- ==== Sys2Proof/Laws/Run.lean ====
section
/-! SUPPORT. What any operation can do, once, and runs of operations. -/

namespace Sys2Proof.Machine

theorem exec_of_fault {s : State} (h : s.fault = true) (i : Instr) : exec i s = .fault .faulted := by
  cases i <;> exact State.ifLive_of_fault h

theorem fault_of_exec_eq_next {i : Instr} {s t : State} (h : exec i s = .next t) : s.fault = false := by
  cases i <;> exact (State.ifLive_eq_next.1 h).1

theorem exec_feed_of_ready {s : State} (b : Byte) (h : s.FeedReady) : exec (.feed b) s = .next (s.feedByte b) :=
  execFeed_eq_next.2 ⟨h.1, h.2, rfl⟩

theorem exec_receive_of_ready {s : State} (t : Timeout) (h : s.ReceiveReady) :
    exec (.receive t) s = .next (s.receivePacket t) :=
  execReceive_eq_next.2 ⟨h.1, h.2, rfl⟩

/-- What RECEIVE can write: RX, `FAULT`, the results and its own note. -/
theorem State.receivePacket_frame (s : State) (t : Timeout) :
    s.receivePacket t = { s with
      rx := (s.receivePacket t).rx
      receivedYet := true
      fault := (s.receivePacket t).fault
      results := (s.receivePacket t).results } := by
  rw [State.receivePacket_eq]
  cases (receiveFrame s.params t s.mode s.rx).1 <;> rfl

/-- Everything an operation that is not stopped can do. -/
theorem exec_cases {i : Instr} {s t : State} (h : exec i s = .next t) :
    (∃ b, i = .feed b ∧ s.FeedReady ∧ t = s.feedByte b) ∨
    (∃ P, i = .encode P ∧ t = { s with tx := t.tx, results := t.results }) ∨
    (∃ τ, i = .receive τ ∧ s.ReceiveReady ∧ t = s.receivePacket τ) ∨
    (∃ m, i = .setMode m ∧ t = (s.writeMode m).answer .ok) ∨
    (i = .decReset ∧ t = s.abandonFrame.answer .ok) ∨
    ((∀ b, i ≠ .feed b) ∧ ∃ r, t = s.answer r) := by
  cases i with
  | feed b =>
    obtain ⟨h1, h2, rfl⟩ := execFeed_eq_next.1 h
    exact .inl ⟨b, rfl, ⟨h1, h2⟩, rfl⟩
  | encode P =>
    obtain ⟨_, rfl⟩ := execEncode_eq_next.1 h
    refine .inr (.inl ⟨P, rfl, ?_⟩)
    obtain ⟨_, e⟩ | ⟨_, _, _, e⟩ | ⟨_, e⟩ := s.encodePacket_cases P <;> rw [e]
    · rfl
    · rfl
    · rw [State.transmit_eq]; rfl
  | receive τ =>
    obtain ⟨h1, h2, rfl⟩ := execReceive_eq_next.1 h
    exact .inr (.inr (.inl ⟨τ, rfl, ⟨h1, h2⟩, rfl⟩))
  | setMode m =>
    obtain rfl := Host.Outcome.next.inj (State.ifLive_eq_next.1 h).2
    exact .inr (.inr (.inr (.inl ⟨m, rfl, rfl⟩)))
  | decReset =>
    obtain rfl := Host.Outcome.next.inj (State.ifLive_eq_next.1 h).2
    exact .inr (.inr (.inr (.inr (.inl ⟨rfl, rfl⟩))))
  | getMode | escEnc | escDec | ckCompute | ckVerify =>
    obtain rfl := Host.Outcome.next.inj (State.ifLive_eq_next.1 h).2
    exact .inr (.inr (.inr (.inr (.inr ⟨nofun, _, rfl⟩))))

theorem runOps_append (a b : List Instr) (s : State) :
    runOps (a ++ b) s =
      match runOps a s with
      | .next t => runOps b t
      | .fault f => .fault f
      | .refused r => .refused r := by
  induction a generalizing s with
  | nil => rfl
  | cons i a ih =>
    simp only [List.cons_append, runOps]
    cases exec i s <;> simp [ih]

theorem runOps_append_of_next {a b : List Instr} {s t : State} (h : runOps a s = .next t) :
    runOps (a ++ b) s = runOps b t := by
  rw [runOps_append, h]

theorem feeds_append (a b : List Byte) : feeds (a ++ b) = feeds a ++ feeds b :=
  List.map_append

/-- A run that has not stopped and began in the faulted state ran nothing. -/
theorem runOps_of_fault {is : List Instr} {s t : State} (h : runOps is s = .next t) (hf : s.fault = true) : is = [] := by
  cases is with
  | nil => rfl
  | cons i is => simp [runOps, exec_of_fault hf i] at h

end Sys2Proof.Machine
end

