-- ==== Sys2Proof/Tests/Slice0.lean ====
section
/-! SUPPORT. The model's own tests: the checks refuse ill-formed terms, words written out from spec/30_encoding.md decode,
single steps give the results of spec/95_test_vectors.md, and every statement with hypotheses has a witness. -/

open Sys2Proof Sys2Proof.Machine

namespace Sys2Proof.Tests

/-! Helpers -/

/-- The test instantiation of 00 R8. -/
def testParams : Params :=
  { fend := 0xC0, fesc := 0xDB, tfend := 0xDC, tfesc := 0xDD, ck := .xor8 }

/-- The same, with the fed bytes coming from RECEIVE's transport. -/
def sharedParams : Params := { testParams with feedSharesRx := true }

/-- An instance after reset in mode `m`. -/
def idle (m : Bool) : State := { State.resetWith testParams with mode := m }

/-- An instance in a frame of mode `m`. -/
def inFrame (m : Bool) (T : FrameRec) : State := { idle m with decActive := true, decFmode := m, dec := T }

/-- A frame record with no accumulator written but those given. -/
def rec (cnt exp : Count) (esc : Bool := false) (len : Byte := 0) (data : List Byte := []) : FrameRec :=
  { FrameRec.blank with cnt := cnt, exp := exp, esc := esc, len := len, data := data }

/-- An instance whose transport will answer these reads. -/
def withRx (s : State) (answers : List (Option Byte)) : State := { s with rx := { answers := answers, reads := 0 } }

/-- An instance whose transport will answer the next write so. -/
def withTx (s : State) (a : TxAnswer) : State := { s with tx := { log := [], answers := [a], writes := 0 } }

/-- What a test looks at in a next state, if there is one. -/
def seen {α : Type} (o : Host.Outcome State Fault Refusal) (f : State → α) : Option α :=
  match o with
  | .next t => some (f t)
  | .fault _ => none
  | .refused _ => none

/-- The packet of W1. -/
def w1 : PacketRecord := { addr := 0x05, cmd := 0x10, n := 1, data := [0xAA] }

/-! Smoke tests: an ill-formed term for each check, which the check refuses -/

/-- 30 R76 (a): `FESC = FEND`. -/
theorem test_params_a_refused : Params.build? 0xC0 0xC0 0xDC 0xDD .xor8 false .raw false = none := by decide

/-- 30 R76 (b): `TFEND = TFESC`. -/
theorem test_params_b_refused : Params.build? 0xC0 0xDB 0xDC 0xDC .xor8 false .raw false = none := by decide

/-- 30 R76 (c): `TFEND = FEND`. -/
theorem test_params_c_refused : Params.build? 0xC0 0xDB 0xC0 0xDD .xor8 false .raw false = none := by decide

/-- 30 R76 (d): `TFESC = FEND`. -/
theorem test_params_d_refused : Params.build? 0xC0 0xDB 0xDC 0xC0 .xor8 false .raw false = none := by decide

/-- 30 R76 forbids no more: `TFEND = FESC` and `TFESC = FESC` are each allowed. -/
theorem test_params_allowed :
    (Params.build? 0xC0 0xDB 0xDB 0xDD .xor8 false .raw false).isSome = true ∧
    (Params.build? 0xC0 0xDB 0xDC 0xDB .xor8 false .raw false).isSome = true ∧
    Params.build? 0xC0 0xDB 0xDC 0xDD .xor8 false .raw false = some testParams := by decide

/-- 42 R131 (1): V-N12. -/
theorem test_record_length_refused :
    PacketRecord.wellFormed false { addr := 0, cmd := 0x10, n := 1, data := [] } = false := by decide

/-- 42 R131 (2): V-N9. -/
theorem test_record_address_refused :
    PacketRecord.wellFormed true { addr := 0x80, cmd := 0x10, n := 1, data := [0xAA] } = false := by decide

/-- 00 R13: a length that disagrees with the data, and an address with bit 7 set. -/
theorem test_packet_refused :
    Packet.wellFormed { addr := 0, cmd := 0, n := 2, data := [1], ck := 0 } = false ∧
    Packet.wellFormed { addr := 0x80, cmd := 0, n := 0, data := [], ck := 0 } = false := by decide

/-! Words written out bit by bit from 30 R80 and R82: op, reserved, p, imm8 -/

/-- FEED of C0. -/
theorem test_word_feed : decode { word := 0b0001_000_0_11000000 } = .ok (.feed 0xC0) := by decide

/-- ENCODE of the record of W1. -/
theorem test_word_encode : decode { word := 0b0010_000_0_00000000, operands := w1.operands } = .ok (.encode w1) := by decide

/-- RECEIVE. -/
theorem test_word_receive :
    decode { word := 0b0011_000_0_00000000, operands := { t := { token := 9 } } } = .ok (.receive { token := 9 }) := by decide

/-- SET_MODE 1 and SET_MODE 0. -/
theorem test_word_setMode :
    decode { word := 0b0100_000_0_00000001 } = .ok (.setMode true) ∧
    decode { word := 0b0100_000_0_00000000 } = .ok (.setMode false) := by decide

/-- GET_MODE. -/
theorem test_word_getMode : decode { word := 0b0101_000_0_00000000 } = .ok .getMode := by decide

/-- DEC_RESET. -/
theorem test_word_decReset : decode { word := 0b0110_000_0_00000000 } = .ok .decReset := by decide

/-- ESC_ENC of DB. -/
theorem test_word_escEnc : decode { word := 0b0111_000_0_11011011 } = .ok (.escEnc 0xDB) := by decide

/-- ESC_DEC with the pending flag, and without. -/
theorem test_word_escDec :
    decode { word := 0b1000_000_1_11011100 } = .ok (.escDec true 0xDC) ∧
    decode { word := 0b1000_000_0_11011100 } = .ok (.escDec false 0xDC) := by decide

/-- CK_COMPUTE in mode 1. -/
theorem test_word_ckCompute :
    decode { word := 0b1001_000_0_00000001, operands := w1.operands } = .ok (.ckCompute true w1) := by decide

/-- CK_VERIFY in mode 0. -/
theorem test_word_ckVerify :
    decode { word := 0b1010_000_0_00000000, operands := { w1.operands with ck := 0xBB } }
      = .ok (.ckVerify false (w1.withCk 0xBB)) := by decide

/-- V-X2, the words whose operation no row has. -/
theorem test_words_no_op :
    [0x0000, 0xB000, 0xF123].map (fun w => decode { word := w }) = List.replicate 3 (.error .noSuchOp) := by decide

/-- V-X2, the words with a fixed bit that differs. -/
theorem test_words_fixed_bits :
    [0x1100, 0x1200, 0x2001, 0x3100, 0x4002, 0x5001, 0x6100, 0x7100, 0x8200, 0x9002, 0xA100].map
      (fun w => decode { word := w }) = List.replicate 11 (.error .fixedBitsDiffer) := by decide

/-! Single steps against 95 -/

/-- V-D1, first row. -/
theorem test_feed_starts_frame :
    seen (exec (.feed 0xC0) (idle true)) (fun t => (t.results, t.decActive, t.decFmode, t.dec.cnt, t.dec.exp))
      = some ([.incomplete], true, true, 1, 5) := by decide

/-- V-D13, last byte: the fault leaves every other element. -/
theorem test_feed_bad_escape :
    seen (exec (.feed 0x00) (inFrame false (rec 2 4 (esc := true)))) (fun t => (t.results, t.fault, t.decActive, t.dec))
      = some ([], true, true, rec 2 4 (esc := true)) := by decide

/-- V-N7: stuffed command and data, the operand byte DC bare. -/
theorem test_encode_stuffs :
    seen (exec (.encode { addr := 0x5B, cmd := 0xC0, n := 2, data := [0xDB, 0xDC] }) (withTx (idle true) .ok))
      (fun t => (t.results, t.tx.log))
      = some ([.ok], [0xC0, 0x5B, 0xDB, 0xDC, 0x02, 0xDB, 0xDD, 0xDC, 0x9E]) := by decide

/-- V-N11: both constraints fail, the length is told first. -/
theorem test_encode_length_first :
    seen (exec (.encode { addr := 0x80, cmd := 0x10, n := 2, data := [0xAA] }) (withTx (idle true) .ok))
      (fun t => (t.results, t.tx.log)) = some ([.error .invalidLength], []) := by decide

/-- V-B2: the raw byte count. -/
theorem test_receive_counts_raw :
    seen (exec (.receive { token := 0 })
        (withRx (idle false) ([0xC0, 0x10, 0x01, 0xDB, 0xDC, 0xD1, 0xC0].map some)))
      (fun t => (t.results, t.rx.answers, t.dec))
      = some ([.okPacket { addr := 0, cmd := 0x10, n := 1, data := [0xC0], ck := 0xD1 } 6], [some 0xC0], FrameRec.blank) := by
  decide

/-- V-B7: the fault, four bytes consumed. -/
theorem test_receive_bad_escape :
    seen (exec (.receive { token := 0 }) (withRx (idle false) ([0xC0, 0x10, 0xDB, 0x41].map some)))
      (fun t => (t.results, t.fault, t.rx.reads)) = some ([], true, 4) := by decide

/-- V-M1. -/
theorem test_setMode : seen (exec (.setMode true) (idle false)) (fun t => (t.mode, t.results)) = some (true, [.ok]) := by decide

/-- V-M2: `MODE`, not `DEC_FMODE`. -/
theorem test_getMode :
    seen (exec .getMode { inFrame false (rec 1 4) with mode := true }) (·.results) = some [.okMode true] := by decide

/-- V-D15: the pending escape and the data go, the command and the length stay. -/
theorem test_decReset :
    seen (exec .decReset (inFrame false { rec 3 5 (esc := true) (len := 1) with cmd := 0x10 }))
      (fun t => (t.decActive, t.dec, t.results)) = some (false, { rec 0 0 (len := 1) with cmd := 0x10 }, [.ok]) := by decide

/-- V-E1. -/
theorem test_escEnc :
    [0xC0, 0xDB, 0xDC, 0xFF].map (fun b => seen (exec (.escEnc b) (idle false)) (·.results))
      = [some [.okBytes [0xDB, 0xDC]], some [.okBytes [0xDB, 0xDD]], some [.okBytes [0xDC]], some [.okBytes [0xFF]]] := by
  decide

/-- V-E2, nothing pending. -/
theorem test_escDec_plain :
    [0xDB, 0xC0, 0xDC].map (fun b => seen (exec (.escDec false b) (idle false)) (·.results))
      = [some [.okEscape true none], some [.okEscape false (some 0xC0)], some [.okEscape false (some 0xDC)]] := by decide

/-- V-E2, an escape pending. -/
theorem test_escDec_pending :
    [0xDC, 0xDD, 0xDB].map (fun b => seen (exec (.escDec true b) (idle false)) (·.results))
      = [some [.okEscape false (some 0xC0)], some [.okEscape false (some 0xDB)], some [.error .badEscape]] := by decide

/-- V-K1: the address is covered in mode 1 only, and the length is not checked. -/
theorem test_ckCompute :
    seen (exec (.ckCompute true w1) (idle false)) (·.results) = some [.okByte 0xBE] ∧
    seen (exec (.ckCompute false { w1 with n := 2 }) (idle false)) (·.results) = some [.okByte 0xB8] := by decide

/-- V-K2. -/
theorem test_ckVerify :
    seen (exec (.ckVerify true (w1.withCk 0xBE)) (idle false)) (·.results) = some [.okBool true] ∧
    seen (exec (.ckVerify false (w1.withCk 0xBE)) (idle false)) (·.results) = some [.okBool false] := by decide

/-- V-E4. -/
theorem test_unstuff :
    unstuff testParams [0xC0, 0xC0] = .ok [0xC0, 0xC0] ∧ unstuff testParams [0xDB] = .incomplete ∧
    unstuff testParams [0xDB, 0x41] = .bad := by decide

/-- V-X3: the `FAULT` gate comes before an illegal word. -/
theorem test_fault_before_illegal :
    step { idle false with fault := true, pending := [{ word := 0 }] } = .fault .faulted := by rfl

/-- The first step after reset runs the placed word. -/
theorem test_withFetchWord :
    seen (step (State.reset.withFetchWord 16 0x4001)) (fun t => (t.mode, t.results)) = some (true, [.ok]) := by rfl

/-- 30 R87 and R88. -/
theorem test_assembler :
    assembleLine "CKVERIFY 1, 0x05, 0x10, 1, [0xAA], 0xBE ; W1".toList = some [.ckVerify true (w1.withCk 0xBE)] ∧
    assembleLine "FEEDS 0xC0, 5".toList = some [.feed 0xC0, .feed 5] ∧
    assembleLine "ENCODE 0x00, 0x20, 0, []".toList = some [.encode { addr := 0, cmd := 0x20, n := 0, data := [] }] ∧
    assembleLine "FEED 256".toList = none := by decide

/-! Witnesses: a state and operands that meet the hypotheses of each statement, at the edge of each clause -/

theorem witness_DecodeEncodeRoundTrip : (Instr.escDec true 0xFF).wellFormed = true := rfl

theorem witness_DecodedWordIsItsEncoding : decode { word := 0x81FF } = .ok (.escDec true 0xFF) := by decide

theorem witness_IllegalWords :
    decode { word := 0x0FFF } = .error .noSuchOp ∧ decode { word := 0xB000 } = .error .noSuchOp ∧
    decode { word := 0xFFFF } = .error .noSuchOp ∧ decode { word := 0xA002 } = .error .fixedBitsDiffer ∧
    (idle false).fault = false ∧ { idle false with pending := [{ word := 0x0FFF }] }.pending = [{ word := 0x0FFF }] := by
  decide

theorem witness_StepRunsDecodedOperation :
    (State.reset.withFetchWord 16 0x5000).fault = false ∧
    (State.reset.withFetchWord 16 0x5000).pending = [{ word := 0x5000 }] ∧
    decode { word := 0x5000 } = .ok .getMode := by
  exact ⟨rfl, rfl, by decide⟩

theorem witness_StepWaitsForTheHost : State.reset.fault = false ∧ State.reset.pending = [] := ⟨rfl, rfl⟩

theorem witness_FaultBlocksEveryOperation : { idle false with fault := true }.fault = true := rfl

theorem witness_FeedWhileIdle :
    (idle true).FeedReady ∧ (idle true).decActive = false ∧ 0xC0 = (idle true).params.fend ∧
    0xDB ≠ (idle true).params.fend := by decide

/-- Both kinds of step, with and without a pending escape. -/
theorem witness_FeedEscapeStep :
    (inFrame true (rec 2 5)).FeedReady ∧ (inFrame true (rec 2 5)).decActive = true ∧
    escDec testParams false 0xDB = (true, .nothing) ∧ escDec testParams false 0xC0 = (false, .byte 0xC0) ∧
    escDec testParams true 0xDD = (false, .byte 0xDB) := by decide

theorem witness_FeedBadEscapeFaults :
    (inFrame false (rec 2 4 (esc := true))).FeedReady ∧ (inFrame false (rec 2 4 (esc := true))).decActive = true ∧
    (inFrame false (rec 2 4 (esc := true))).dec.esc = true ∧
    0xDB ≠ testParams.tfend ∧ 0xDB ≠ testParams.tfesc := by decide

/-- Before the last position, and at it. -/
theorem witness_StartMarkerInsideFrameIsData :
    (inFrame true (rec 1 5)).FeedReady ∧ (inFrame true (rec 1 5)).DecInv ∧ (inFrame true (rec 1 5)).dec.esc = false ∧
    (inFrame true (rec 4 5)).DecInv ∧ (rec 4 5).cnt.toNat + 1 = (rec 4 5).exp.toNat :=
  ⟨by decide, by decide, by decide, by decide, by decide⟩

/-- Each of the three clauses. -/
theorem witness_FeedAddressAndCommand :
    (inFrame true (rec 1 5)).FeedReady ∧ (inFrame true (rec 1 5)).DecInv ∧ (inFrame true (rec 2 5)).DecInv ∧
    (inFrame false (rec 1 4)).DecInv ∧ escDec testParams false 0xFF = (false, .byte 0xFF) :=
  ⟨by decide, by decide, by decide, by decide, by decide⟩

/-- The length byte in each mode; a later byte; the position after a length of 0, in each mode. -/
theorem witness_FeedLengthByte :
    (inFrame true (rec 3 5)).FeedReady ∧ (inFrame true (rec 3 5)).DecInv ∧ (inFrame false (rec 2 4)).DecInv ∧
    escDec testParams false 0xFF = (false, .byte 0xFF) ∧ escDec testParams false 0 = (false, .byte 0) ∧
    (inFrame true (rec 4 6 (len := 1))).DecInv ∧
    (seen (exec (.feed 0) (inFrame true (rec 4 6 (len := 1)))) (·.decActive)) = some true ∧
    (inFrame true (rec 4 5)).DecInv ∧ (rec 4 5).cnt.toNat = lengthPos true + 1 ∧
    (inFrame false (rec 3 4)).DecInv ∧ (rec 3 4).cnt.toNat = lengthPos false + 1 :=
  ⟨by decide, by decide, by decide, by decide, by decide, by decide, by decide, by decide, by decide, by decide, by decide⟩

/-- The first and the last data byte. -/
theorem witness_FeedDataByte :
    (inFrame true (rec 4 7 (len := 2))).FeedReady ∧ (inFrame true (rec 4 7 (len := 2))).DecInv ∧
    dataPos true ≤ 4 ∧ 4 ≤ 7 - 2 ∧
    (inFrame true (rec 5 7 (len := 2) (data := [1]))).DecInv ∧ 5 ≤ 7 - 2 ∧
    escDec testParams true 0xDC = (false, .byte 0xC0) :=
  ⟨by decide, by decide, by decide, by decide, by decide, by decide, by decide⟩

/-- A frame with no data, and one with some. -/
theorem witness_FeedChecksumByteCompletes :
    (inFrame true (rec 4 5)).FeedReady ∧ (inFrame true (rec 4 5)).DecInv ∧ (rec 4 5).cnt.toNat = (rec 4 5).exp.toNat - 1 ∧
    (inFrame false (rec 4 5 (len := 1) (data := [7]))).DecInv ∧
    escDec testParams false 0xBE = (false, .byte 0xBE) :=
  ⟨by decide, by decide, by decide, by decide, by decide⟩

theorem witness_FeedLeavesTheRest :
    exec (.feed 0xC0) (inFrame true (rec 1 5)) = .next ((inFrame true (rec 1 5)).feedByte 0xC0) := by rfl

/-- Both errors. -/
theorem witness_FeedErrorsLeaveTheDecoderIdle :
    seen (exec (.feed 0x11) (idle false)) (·.results) = some ((idle false).results ++ [.error .notStartByte]) ∧
    seen (exec (.feed 1) (inFrame false (rec 3 4))) (·.results)
      = some ((inFrame false (rec 3 4)).results ++ [.error .checksumMismatch]) := by decide

/-- A step from a state with the invariants, and an operation that leaves an escape pending, of each kind. -/
theorem witness_DecoderInvariantKept :
    (State.reset.withFetchWord 16 0x6000).DecInv ∧
    seen (step (State.reset.withFetchWord 16 0x6000)) (·.results) = some [.ok] ∧
    seen (exec (.feed 0xDB) (inFrame false (rec 1 4))) (fun t => (t.decActive, t.dec.esc)) = some (true, true) ∧
    seen (exec .getMode (inFrame false (rec 1 4 (esc := true)))) (fun t => (t.decActive, t.dec.esc))
      = some (true, true) := by
  exact ⟨⟨fun _ => ⟨rfl, rfl, rfl⟩, fun h => Bool.noConfusion h⟩, rfl, by decide, by decide⟩

theorem witness_EscapePendingOnlyAfterFesc :
    (inFrame false (rec 1 4)).dec.esc = false ∧
    seen (exec (.feed 0xDB) (inFrame false (rec 1 4))) (·.dec.esc) = some true := by decide

theorem witness_CompletedPacketIsWellFormed :
    (inFrame false (rec 3 4)).DecInv ∧
    seen (exec (.feed 0) (inFrame false (rec 3 4))) (·.results)
      = some ((inFrame false (rec 3 4)).results ++ [.complete { addr := 0, cmd := 0, n := 0, data := [], ck := 0 }]) := by
  decide

theorem witness_IdleDecoderContentsUnobservable : (idle true).decActive = false := rfl

/-- Each clause. -/
theorem witness_DecResetAbandonsTheFrame :
    (inFrame true (rec 2 5 (esc := true))).fault = false ∧
    { inFrame true (rec 2 5 (esc := true)) with fault := true }.fault = true := by decide

theorem witness_ModeChangeInsideFrameIsDeferred :
    (inFrame true (rec 3 5)).decActive = true ∧
    exec (.feed 9) (inFrame true (rec 3 5)) = .next ((inFrame true (rec 3 5)).feedByte 9) := ⟨rfl, rfl⟩

/-- A start, an end by a frame's last byte, and an end by DEC_RESET. -/
theorem witness_FramesStartAndEndOnlyHere :
    seen (exec (.feed 0xC0) (idle true)) (·.decActive) = some true ∧
    seen (exec (.feed 0) (inFrame false (rec 3 4))) (·.decActive) = some false ∧
    seen (exec .decReset (inFrame false (rec 3 4))) (·.decActive) = some false := by decide

/-- Both ways into the faulted state. -/
theorem witness_FaultSetOnlyByBadEscape :
    seen (exec (.feed 0) (inFrame false (rec 2 4 (esc := true)))) (·.fault) = some true ∧
    seen (exec (.receive { token := 0 }) (withRx (idle false) ([0xC0, 0xDB, 0xDB].map some))) (·.fault) = some true := by
  decide

/-- Each clause, and the largest address that is not too large (the clauses of the next statement meet there). -/
theorem witness_EncodeRejectsBadPackets :
    (idle true).fault = false ∧ ([] : List Byte).length ≠ (1 : Byte).toNat ∧
    (List.replicate 256 (0 : Byte)).length ≠ (0 : Byte).toNat ∧
    w1.data.length = w1.n.toNat ∧ (idle true).mode = true ∧ (0x80 : Byte).toNat > 0x7F :=
  ⟨by decide, by decide, by rw [List.length_replicate]; decide, by decide, by decide, by decide⟩

theorem witness_EncodeWritesTheFrame :
    (withTx (idle true) .ok).fault = false ∧ w1.data.length = w1.n.toNat ∧ (0x7F : Byte).toNat ≤ 0x7F ∧
    txAnswer (withTx (idle true) .ok).tx = (.ok, { log := [], answers := [], writes := 1 }) := by decide

/-- A drawn prefix that is empty, and one longer than the frame. -/
theorem witness_EncodeWriteFailure :
    (withTx (idle true) (.err 0)).fault = false ∧ w1.wellFormed true = true ∧
    txAnswer (withTx (idle true) (.err 0)).tx = (.err 0, { log := [], answers := [], writes := 1 }) ∧
    txAnswer (withTx (idle true) (.err 999)).tx = (.err 999, { log := [], answers := [], writes := 1 }) := by decide

theorem witness_EncodeLeavesTheDecoder :
    exec (.encode w1) (withTx (inFrame true (rec 2 5)) .ok)
      = .next ((withTx (inFrame true (rec 2 5)) .ok).encodePacket w1) := by rfl

/-- The shortest and the longest data, and the largest counters. -/
theorem witness_FrameLengthBounds :
    ([] : List Byte).length = (0 : Byte).toNat ∧ (List.replicate 255 (0xC0 : Byte)).length = (255 : Byte).toNat ∧
    (inFrame true (rec 4 260 (len := 255))).DecInv :=
  ⟨by decide, List.length_replicate, by decide⟩

theorem witness_StuffedBytesHoldNoStartMarker : (0xDC : Byte) ∈ stuff testParams [0xC0] := by decide

theorem witness_EncodeThenFeedRoundTrip :
    (withTx (idle true) .ok).FeedReady ∧ (withTx (idle true) .ok).decActive = false ∧ w1.data.length = w1.n.toNat ∧
    w1.addr.toNat ≤ 0x7F ∧ txAnswer (withTx (idle true) .ok).tx = (.ok, { log := [], answers := [], writes := 1 }) := by decide

theorem xor8_flipBit (L : List Byte) : ∀ i j, i < L.length → xor8 (flipBit L i j) = xor8 L ^^^ (1#8 <<< j) := by
  induction L with
  | nil => intro i j h; simp at h
  | cons b L ih =>
    intro i j h
    cases i with
    | zero =>
      have e := xor8_append [b ^^^ (1#8 <<< j)] L
      have e' := xor8_append [b] L
      simp only [List.singleton_append] at e e'
      have ec : xor8 [b ^^^ (1#8 <<< j)] = xor8 [b] ^^^ (1#8 <<< j) := by simp [xor8]
      simp only [flipBit, List.modify_zero_cons]
      rw [e, e', ec, BitVec.xor_assoc, BitVec.xor_comm (1#8 <<< j), ← BitVec.xor_assoc]
    | succ i =>
      have e := xor8_append [b] (flipBit L i j)
      have e' := xor8_append [b] L
      simp only [List.singleton_append] at e e'
      have := ih i j (by simpa using h)
      simp only [flipBit, List.modify_succ_cons] at this e ⊢
      rw [e, e', this, BitVec.xor_assoc]

/-- A checksum with the premise exists (41 R125), and two records that differ in one bit of the command. -/
theorem witness_SingleBitDamageIsDetected :
    DetectsOneBit testParams ∧ (idle true).FeedReady ∧ (idle true).decActive = false ∧ w1.wellFormed true = true ∧
    { w1 with cmd := 0x11 }.wellFormed true = true ∧ DifferInOneBit (cov true w1) (cov true { w1 with cmd := 0x11 }) := by
  refine ⟨?_, by decide, rfl, by decide, by decide, 1, 0, by decide, by decide, by decide⟩
  rintro m L _ ⟨i, j, hi, hj, rfl⟩ h
  have hx : xor8 L = xor8 L ^^^ (1#8 <<< j) := h.trans (xor8_flipBit L i j hi)
  have h0 : (1#8 <<< j) = 0#8 := by
    have := congrArg (fun z => xor8 L ^^^ z) hx
    simpa [← BitVec.xor_assoc] using this.symm
  interval_cases j <;> revert h0 <;> decide

/-- Each clause. -/
theorem witness_ReceiveFirstByte :
    (withRx (idle true) [none]).ReceiveReady ∧
    rxRead { token := 0 } (withRx (idle true) [none]).rx = (none, { answers := [], reads := 1 }) ∧
    rxRead { token := 0 } (withRx (idle true) [some 5]).rx = (some 5, { answers := [], reads := 1 }) ∧
    5 ≠ testParams.fend := by decide

theorem witness_ReceiveAlwaysEnds : (idle true).ReceiveReady := by decide

theorem witness_ReceiveLeavesTheDecoder :
    exec (.receive { token := 0 }) (withRx (inFrame true (rec 2 5)) [none])
      = .next ((withRx (inFrame true (rec 2 5)) [none]).receivePacket { token := 0 }) := by rfl

/-- A frame that completes, and one whose checksum does not match. -/
theorem witness_ReceiveAgreesWithFeed :
    (idle false).FeedReady ∧ (idle false).ReceiveReady ∧ (idle false).decActive = false ∧
    seen (runOps (feeds [0xC0, 0x20, 0x00, 0x20]) (idle false)) (·.results)
      = some ((idle false).results ++ List.replicate 3 .incomplete ++
          [.complete { addr := 0, cmd := 0x20, n := 0, data := [], ck := 0x20 }]) ∧
    seen (runOps (feeds [0xC0, 0x20, 0x00, 0x21]) (idle false)) (·.results)
      = some ((idle false).results ++ List.replicate 3 .incomplete ++ [.error .checksumMismatch]) := by decide

/-- The frame without data, with a byte of the next one after it. -/
theorem witness_EncodedFrameIsReceived :
    (withRx (idle false) ([0xC0, 0x20, 0x00, 0x20, 0xC0].map some)).ReceiveReady ∧
    (idle false).mode = false ∧ ([] : List Byte).length = (0 : Byte).toNat ∧
    [0xC0, 0x20, 0x00, 0x20] = wireFrame testParams false { addr := 0, cmd := 0x20, n := 0, data := [] } ∧
    (withRx (idle false) ([0xC0, 0x20, 0x00, 0x20, 0xC0].map some)).rx.answers
      = [0xC0, 0x20, 0x00, 0x20].map some ++ [some 0xC0] := by decide

/-- No byte at all fed, and a frame cut after an escape. -/
theorem witness_ReceiveTimeoutLosesTheFrame :
    (idle false).FeedReady ∧ (idle false).ReceiveReady ∧ (idle false).decActive = false ∧
    seen (runOps (feeds []) (idle false)) (·.results) = some ((idle false).results ++ List.replicate 0 .incomplete) ∧
    seen (runOps (feeds [0xC0, 0x20, 0xDB]) (idle false)) (·.results)
      = some ((idle false).results ++ List.replicate 3 .incomplete) := by decide

theorem witness_ReceiveFaultsWhereFeedFaults :
    (idle false).FeedReady ∧ (idle false).ReceiveReady ∧ (idle false).decActive = false ∧
    seen (runOps (feeds [0xC0, 0x10, 0xDB, 0x00]) (idle false)) (fun t => (t.fault, t.results))
      = some (true, (idle false).results ++ List.replicate 3 .incomplete) := by decide

theorem witness_ReceiveReadsAtMost519 :
    exec (.receive { token := 0 }) (withRx (idle true) [none])
      = .next ((withRx (idle true) [none]).receivePacket { token := 0 }) := by rfl

theorem witness_ReceiveBoundNeverCuts : 518 ≤ 519 := by decide

/-- Each clause. -/
theorem witness_SharedTransportIsRefused :
    { State.resetWith sharedParams with receivedYet := true }.fault = false ∧
    { State.resetWith sharedParams with receivedYet := true }.params.feedSharesRx = true ∧
    { State.resetWith sharedParams with receivedYet := true }.receivedYet = true ∧
    { State.resetWith sharedParams with fedYet := true }.fedYet = true := by decide

theorem witness_TransportKeepsOneOwner :
    ({ State.resetWith sharedParams with fedYet := true, pending := [{ word := 0x10C0 }] } : State).OneOwner ∧
    seen (step { State.resetWith sharedParams with fedYet := true, pending := [{ word := 0x10C0 }] }) (·.fedYet)
      = some true := by decide

/-- Each clause of SET_MODE and of GET_MODE. -/
theorem witness_SetModeAndGetMode : { idle false with fault := true }.fault = true ∧ (idle false).fault = false := by decide

theorem witness_ModeAndParametersChangedOnlyHere :
    seen (exec (.setMode true) (idle false)) (·.mode) = some true ∧ true ≠ (idle false).mode := by decide

/-- A change of TX and a change of RX. -/
theorem witness_StreamsTouchedOnlyByTheirOperation :
    seen (exec (.encode w1) (withTx (idle true) .ok)) (·.tx.log) = some [0xC0, 0x05, 0x10, 0x01, 0xAA, 0xBE] ∧
    seen (exec (.receive { token := 0 }) (withRx (idle true) [none])) (·.rx) = some { answers := [], reads := 1 } := by decide

/-- ESC_ENC, ESC_DEC, CK_COMPUTE and CK_VERIFY ask for no more than this. -/
theorem witness_CodecAndChecksum : (idle false).fault = false := rfl

theorem witness_Xor8DetectsOneBit : testParams.ck = .xor8 := rfl

end Sys2Proof.Tests
end

section
/-! The packets a decoder returns (spec/00_scope.md R13): the packet of a finished record, and the FEED that completes. -/

namespace Sys2Proof.Machine

theorem Packet.wellFormed_iff (P : Packet) :
    P.wellFormed = true ↔ P.data.length = P.n.toNat ∧ P.addr.getLsbD 7 = false := by
  simp [Packet.wellFormed]

/-- The exposed address is 0 or a zero-extended 7-bit value (43 R161). -/
@[simp] theorem FrameRec.packet_addr_bit7 (T : FrameRec) (m : Bool) : (T.packet m).addr.getLsbD 7 = false := by
  cases m <;> simp [FrameRec.packet]

theorem FrameRec.packet_wellFormed_iff (T : FrameRec) (m : Bool) :
    (T.packet m).wellFormed = true ↔ T.data.length = T.len.toNat := by
  rw [Packet.wellFormed_iff, and_iff_left (T.packet_addr_bit7 m)]
  rfl

/-- The byte that finishes a frame in progress is its checksum, and the data was complete before it (43 R159, R160). -/
theorem FrameRec.packet_wellFormed_of_finished {T : FrameRec} {m : Bool} (h : T.InProgress m) {x : Byte}
    (hf : (T.consume m x).finished = true) : ((T.consume m x).packet m).wellFormed = true := by
  have he : T.cnt.toNat + 1 = T.exp.toNat := (FrameRec.consume_finished h x).1 hf
  obtain ⟨hc, hd⟩ := FrameRec.last_position h he
  rw [FrameRec.packet_wellFormed_iff, FrameRec.consume_checksum hc (by omega) x]
  exact hd

/-- `COMPLETE()` answers a packet only when it is the record's own and verifies (43 R160). -/
theorem State.completeFrame_results_complete {s : State} {P : Packet}
    (h : s.completeFrame.results = s.results ++ [.complete P]) :
    P = s.dec.packet s.decFmode ∧ verifyCk s.params s.decFmode P = true := by
  simp only [State.completeFrame, State.answer_results, List.append_cancel_left_eq, List.cons.injEq, and_true] at h
  split at h
  next hv =>
    obtain rfl := Result.complete.inj h
    exact ⟨rfl, hv⟩
  next => exact nomatch h

/-- FEED completes only while Receiving, with the packet of the record that its logical byte finishes. -/
theorem State.feedByte_results_complete {s : State} {b : Byte} {P : Packet}
    (h : (s.feedByte b).results = s.results ++ [.complete P]) :
    s.decActive = true ∧ ∃ y,
      (({ s.dec with esc := false } : FrameRec).consume s.decFmode y).finished = true ∧
      P = (({ s.dec with esc := false } : FrameRec).consume s.decFmode y).packet s.decFmode ∧
      verifyCk s.params s.decFmode P = true := by
  obtain ⟨-, -, e⟩ | ⟨-, -, e⟩ | ⟨-, -, -, e⟩ | ⟨ha, y, -, e⟩ | ⟨-, -, -, -, e⟩ := s.feedByte_cases b <;> rw [e] at h
  · simp at h
  · simp at h
  · simp at h
  · obtain ⟨hf, e⟩ | ⟨-, e⟩ :=
      State.feedLogical_eq { s with fedYet := true, dec := { s.dec with esc := false } } y <;> rw [e] at h
    · exact ⟨ha, y, hf, State.completeFrame_results_complete h⟩
    · simp at h
  · simp at h

/-- Settles O22: the finished record has the data its length field says, and `COMPLETE()` has verified its packet. -/
theorem completedPacketIsWellFormed : Obligations.CompletedPacketIsWellFormed := by
  unfold Obligations.CompletedPacketIsWellFormed
  intro b s t P ⟨_, hactive⟩ hexec hres
  obtain ⟨-, -, rfl⟩ := execFeed_eq_next.1 hexec
  obtain ⟨ha, y, hf, rfl, hv⟩ := State.feedByte_results_complete hres
  exact ⟨FrameRec.packet_wellFormed_of_finished (FrameRec.inProgress_esc (hactive ha) false) hf, hv⟩

end Sys2Proof.Machine
end

section
/-! The state's invariants and frames (spec/10_state.md): what each operation can do to the incremental decoder's elements,
to `FAULT` and to `MODE`. -/

namespace Sys2Proof.Machine

/-! `State.completeFrame`, field by field -/

@[simp] theorem State.completeFrame_decActive (s : State) : s.completeFrame.decActive = false := rfl
@[simp] theorem State.completeFrame_dec (s : State) : s.completeFrame.dec = s.dec.idle := rfl
@[simp] theorem State.completeFrame_fault (s : State) : s.completeFrame.fault = s.fault := rfl

/-- A logical byte keeps a pending escape clear (43 R153). -/
theorem State.feedLogical_esc {s : State} (h : s.dec.esc = false) (x : Byte) : (s.feedLogical x).dec.esc = false := by
  obtain ⟨-, e⟩ | ⟨-, e⟩ := s.feedLogical_eq x <;> rw [e]
  · rfl
  · simpa using h

theorem State.feedLogical_fault (s : State) (x : Byte) : (s.feedLogical x).fault = s.fault := by
  obtain ⟨-, e⟩ | ⟨-, e⟩ := s.feedLogical_eq x <;> rw [e] <;> rfl

/-- FEED writes the decoder's elements, `FAULT`, the results and its own note, and nothing else. -/
theorem State.feedByte_frame (s : State) (b : Byte) :
    s.feedByte b = { s with
      decActive := (s.feedByte b).decActive
      decFmode := (s.feedByte b).decFmode
      dec := (s.feedByte b).dec
      fedYet := true
      fault := (s.feedByte b).fault
      results := (s.feedByte b).results } := by
  obtain ⟨-, -, e⟩ | ⟨-, -, e⟩ | ⟨-, -, -, e⟩ | ⟨-, y, -, e⟩ | ⟨-, -, -, -, e⟩ := s.feedByte_cases b <;> rw [e]
  · rfl
  · rfl
  · rfl
  · obtain ⟨-, e⟩ | ⟨-, e⟩ :=
      State.feedLogical_eq { s with fedYet := true, dec := { s.dec with esc := false } } y <;> rw [e] <;> rfl
  · rfl

/-- FEED and DEC_RESET are the only operations that write the incremental decoder (10 R23 to R28). -/
theorem exec_decoder_cases {i : Instr} {s t : State} (h : exec i s = .next t) :
    (∃ b, i = .feed b ∧ t = s.feedByte b) ∨
    (i = .decReset ∧ t = s.abandonFrame.answer .ok) ∨
    ((∀ b, i ≠ .feed b) ∧ t.decActive = s.decActive ∧ t.decFmode = s.decFmode ∧ t.dec = s.dec) := by
  obtain ⟨b, rfl, -, rfl⟩ | ⟨P, rfl, e⟩ | ⟨τ, rfl, -, rfl⟩ | ⟨m, rfl, rfl⟩ | ⟨rfl, rfl⟩ | ⟨hi, r, rfl⟩ := exec_cases h
  · exact .inl ⟨b, rfl, rfl⟩
  · rw [e]
    exact .inr (.inr ⟨nofun, rfl, rfl, rfl⟩)
  · rw [State.receivePacket_frame]
    exact .inr (.inr ⟨nofun, rfl, rfl, rfl⟩)
  · exact .inr (.inr ⟨nofun, rfl, rfl, rfl⟩)
  · exact .inr (.inl ⟨rfl, rfl⟩)
  · exact .inr (.inr ⟨hi, rfl, rfl, rfl⟩)

/-! The invariants (a) to (e) of 10 R29 -/

theorem State.decInv_of_idle {s : State} (ha : s.decActive = false)
    (hd : s.dec.cnt = 0 ∧ s.dec.exp = 0 ∧ s.dec.esc = false) : s.DecInv :=
  ⟨fun _ => hd, fun h => absurd h (by simp [ha])⟩

theorem State.decInv_of_receiving {s : State} (ha : s.decActive = true) (hd : s.dec.InProgress s.decFmode) : s.DecInv :=
  ⟨fun h => absurd h (by simp [ha]), fun _ => hd⟩

/-- Settles O19: the decoder is Idle after reset, with the Idle values. -/
theorem decoderInvariantAtReset : Obligations.DecoderInvariantAtReset := by
  unfold Obligations.DecoderInvariantAtReset
  exact ⟨State.decInv_of_idle rfl ⟨rfl, rfl, rfl⟩, fun _ => State.decInv_of_idle rfl ⟨rfl, rfl, rfl⟩⟩

/-- A logical byte takes a frame in progress to the Idle values or to a frame in progress. -/
theorem State.feedLogical_decInv {s : State} (ha : s.decActive = true) (hp : s.dec.InProgress s.decFmode) (x : Byte) :
    (s.feedLogical x).DecInv := by
  obtain ⟨-, e⟩ | ⟨hf, e⟩ := s.feedLogical_eq x <;> rw [e]
  · exact State.decInv_of_idle rfl ⟨rfl, rfl, rfl⟩
  · have hne : s.dec.cnt.toNat + 1 ≠ s.dec.exp.toNat :=
      fun he => by simp [(FrameRec.consume_finished hp x).2 he] at hf
    exact State.decInv_of_receiving ha (FrameRec.consume_inProgress hp x hne)

theorem State.feedByte_decInv {s : State} (h : s.DecInv) (b : Byte) : (s.feedByte b).DecInv := by
  obtain ⟨-, -, e⟩ | ⟨-, -, e⟩ | ⟨ha, -, -, e⟩ | ⟨ha, y, -, e⟩ | ⟨-, -, -, -, e⟩ := s.feedByte_cases b <;> rw [e]
  · exact h
  · exact State.decInv_of_receiving rfl (FrameRec.start_inProgress _ _)
  · exact State.decInv_of_receiving ha (FrameRec.inProgress_esc (h.2 ha) true)
  · refine State.feedLogical_decInv ?_ ?_ y
    · exact ha
    · exact FrameRec.inProgress_esc (h.2 ha) false
  · exact h

theorem exec_decInv {i : Instr} {s t : State} (h : s.DecInv) (hexec : exec i s = .next t) : t.DecInv := by
  obtain ⟨b, -, rfl⟩ | ⟨-, rfl⟩ | ⟨-, ha, hm, hd⟩ := exec_decoder_cases hexec
  · exact State.feedByte_decInv h b
  · exact State.decInv_of_idle rfl ⟨rfl, rfl, rfl⟩
  · simpa only [State.DecInv, ha, hm, hd] using h

theorem step_decInv {s t : State} (h : s.DecInv) (hstep : step s = .next t) : t.DecInv := by
  obtain ⟨-, ⟨-, rfl⟩ | ⟨r, rest, -, ⟨e, -, rfl⟩ | ⟨i, -, hexec⟩⟩⟩ := step_eq_next hstep
  · exact h
  · exact h
  · exact exec_decInv (s := { s with pending := rest }) h hexec

/-! The pending escape: (f) of 10 R29 -/

/-- How a FEED can end with an escape pending: it fed `FESC` in Receiving, or the escape was pending before and the byte was
rejected while Idle or faulted. -/
theorem State.feedByte_esc {s : State} {b : Byte} (h : (s.feedByte b).dec.esc = true) :
    (s.dec.esc = false ∧ b = s.params.fesc ∧ s.decActive = true ∧ (s.feedByte b).decActive = true) ∨
    (s.dec.esc = true ∧ (s.feedByte b).decActive = false) ∨
    (s.dec.esc = true ∧ s.decActive = true ∧ s.feedByte b = { s with fedYet := true, fault := true }) := by
  obtain ⟨ha, -, e⟩ | ⟨-, -, e⟩ | ⟨ha, hp, hb, e⟩ | ⟨-, y, -, e⟩ | ⟨ha, hp, -, -, e⟩ := s.feedByte_cases b <;> rw [e] at h ⊢
  · exact .inr (.inl ⟨h, ha⟩)
  · simp at h
  · exact .inl ⟨hp, hb, ha, ha⟩
  · rw [State.feedLogical_esc rfl] at h
    exact nomatch h
  · exact .inr (.inr ⟨hp, ha, rfl⟩)

/-- Settles O21: of the three ways a FEED ends with an escape pending only that of `FESC` began without one, and no other
operation sets it. -/
theorem escapePendingOnlyAfterFesc : Obligations.EscapePendingOnlyAfterFesc := by
  unfold Obligations.EscapePendingOnlyAfterFesc
  intro i s t hexec hs ht
  obtain ⟨b, rfl, rfl⟩ | ⟨-, rfl⟩ | ⟨-, -, -, hd⟩ := exec_decoder_cases hexec
  · obtain ⟨-, rfl, ha, ha'⟩ | ⟨hp, -⟩ | ⟨hp, -⟩ := State.feedByte_esc ht
    · exact ⟨rfl, ha, ha'⟩
    · simp [hs] at hp
    · simp [hs] at hp
  · simp at ht
  · simp [hd, hs] at ht

/-- (f) of 10 R29, of the operation that led to a state Receiving with an escape pending. -/
theorem exec_escape_pending {i : Instr} {s t : State} (hexec : exec i s = .next t) (ha : t.decActive = true)
    (hp : t.dec.esc = true) :
    s.decActive = true ∧
      ((s.dec.esc = false ∧ i = .feed s.params.fesc) ∨
        (s.dec.esc = true ∧ ∀ b, i = .feed b → t = { s with fedYet := true, fault := true })) := by
  obtain ⟨b, rfl, rfl⟩ | ⟨-, rfl⟩ | ⟨hi, ha', -, hd⟩ := exec_decoder_cases hexec
  · obtain ⟨hs, rfl, hs', -⟩ | ⟨-, hidle⟩ | ⟨hs, hs', e⟩ := State.feedByte_esc hp
    · exact ⟨hs', .inl ⟨hs, rfl⟩⟩
    · simp [hidle] at ha
    · exact ⟨hs', .inr ⟨hs, fun _ _ => e⟩⟩
  · simp at ha
  · exact ⟨ha' ▸ ha, .inr ⟨hd ▸ hp, fun b hb => absurd hb (hi b)⟩⟩

/-- Settles O20: every kind of step keeps (a) to (e), and (f) by what can leave an escape pending. -/
theorem decoderInvariantKept : Obligations.DecoderInvariantKept := by
  unfold Obligations.DecoderInvariantKept
  exact ⟨fun _ _ => step_decInv, fun _ _ _ => exec_escape_pending⟩

/-! What sets and clears `DEC_ACTIVE` -/

theorem State.completeFrame_results (s : State) :
    (∃ P, s.completeFrame.results = s.results ++ [.complete P]) ∨
      s.completeFrame.results = s.results ++ [.error .checksumMismatch] := by
  simp only [State.completeFrame, State.answer_results]
  split
  · exact .inl ⟨_, rfl⟩
  · exact .inr rfl

/-- Only the marker takes an Idle decoder to Receiving (43 R152). -/
theorem State.feedByte_starts {s : State} {b : Byte} (hs : s.decActive = false)
    (h : (s.feedByte b).decActive = true) : b = s.params.fend := by
  obtain ⟨-, -, e⟩ | ⟨-, hb, -⟩ | ⟨ha, -⟩ | ⟨ha, -⟩ | ⟨ha, -⟩ := s.feedByte_cases b
  · simp [e, hs] at h
  · exact hb
  · simp [hs] at ha
  · simp [hs] at ha
  · simp [hs] at ha

/-- Only completion takes a FEED from Receiving to Idle (43 R160). -/
theorem State.feedByte_ends {s : State} {b : Byte} (hs : s.decActive = true) (h : (s.feedByte b).decActive = false) :
    (∃ P, (s.feedByte b).results = s.results ++ [.complete P]) ∨
      (s.feedByte b).results = s.results ++ [.error .checksumMismatch] := by
  obtain ⟨ha, -⟩ | ⟨ha, -⟩ | ⟨-, -, -, e⟩ | ⟨-, y, -, e⟩ | ⟨-, -, -, -, e⟩ := s.feedByte_cases b
  · simp [hs] at ha
  · simp [hs] at ha
  · simp [e, hs] at h
  · obtain ⟨-, e'⟩ | ⟨-, e'⟩ :=
      State.feedLogical_eq { s with fedYet := true, dec := { s.dec with esc := false } } y <;> rw [e, e'] at h ⊢
    · exact State.completeFrame_results _
    · simp [hs] at h
  · simp [e, hs] at h

/-- Settles O26: only FEED and DEC_RESET write `DEC_ACTIVE`, and FEED only where a frame starts or completes. -/
theorem framesStartAndEndOnlyHere : Obligations.FramesStartAndEndOnlyHere := by
  unfold Obligations.FramesStartAndEndOnlyHere
  refine ⟨fun i s t hexec => ?_, fun s => s.resetInstance_decActive⟩
  obtain ⟨b, rfl, rfl⟩ | ⟨rfl, rfl⟩ | ⟨-, ha, -⟩ := exec_decoder_cases hexec
  · exact ⟨fun hs ht => by rw [State.feedByte_starts hs ht], fun hs ht => .inr ⟨b, rfl, State.feedByte_ends hs ht⟩⟩
  · exact ⟨fun _ ht => by simp at ht, fun _ _ => .inl rfl⟩
  · rw [ha]
    exact ⟨fun hs ht => by simp [hs] at ht, fun hs ht => by simp [hs] at ht⟩

/-! What sets `FAULT` -/

/-- A FEED faults only on an undefined escape operand (43 R163). -/
theorem State.feedByte_fault {s : State} {b : Byte} (hs : s.fault = false) (h : (s.feedByte b).fault = true) :
    s.decActive = true ∧ s.dec.esc = true ∧ b ≠ s.params.tfend ∧ b ≠ s.params.tfesc := by
  obtain ⟨-, -, e⟩ | ⟨-, -, e⟩ | ⟨-, -, -, e⟩ | ⟨-, y, -, e⟩ | ⟨ha, hp, hb, hb', -⟩ := s.feedByte_cases b
  · simp [e, hs] at h
  · simp [e, hs] at h
  · simp [e, hs] at h
  · simp [e, State.feedLogical_fault, hs] at h
  · exact ⟨ha, hp, hb, hb'⟩

/-- A RECEIVE faults only where its bytes hold an undefined escape operand (44 R190). -/
theorem State.receivePacket_fault {s : State} {τ : Timeout} (hs : s.fault = false)
    (h : (s.receivePacket τ).fault = true) : (receiveFrame s.params τ s.mode s.rx).1 = .badEscape := by
  rw [State.receivePacket_eq] at h
  cases he : (receiveFrame s.params τ s.mode s.rx).1 with
  | result r => simp [he, State.endReceive, hs] at h
  | badEscape => rfl

/-- Settles O27: of all operations only FEED and RECEIVE can enter the faulted state, each by `BadEscape`. -/
theorem faultSetOnlyByBadEscape : Obligations.FaultSetOnlyByBadEscape := by
  unfold Obligations.FaultSetOnlyByBadEscape
  refine ⟨fun i s t hexec => ?_, fun s => s.resetInstance_fault⟩
  have hs : s.fault = false := fault_of_exec_eq_next hexec
  refine ⟨hs, fun ht => ?_⟩
  obtain ⟨b, rfl, -, rfl⟩ | ⟨P, -, e⟩ | ⟨τ, rfl, -, rfl⟩ | ⟨m, -, rfl⟩ | ⟨-, rfl⟩ | ⟨-, r, rfl⟩ := exec_cases hexec
  · exact .inl ⟨b, rfl, State.feedByte_fault hs ht⟩
  · rw [e] at ht
    simp [hs] at ht
  · exact .inr ⟨τ, rfl, State.receivePacket_fault hs ht⟩
  · simp [hs] at ht
  · simp [hs] at ht
  · simp [hs] at ht

/-! What writes `MODE` and the instantiation -/

/-- Settles O51: every other operation's frame keeps `MODE`, and every operation's frame keeps the instantiation. -/
theorem modeAndParametersChangedOnlyHere : Obligations.ModeAndParametersChangedOnlyHere := by
  unfold Obligations.ModeAndParametersChangedOnlyHere
  intro i s t hexec
  obtain ⟨b, -, -, rfl⟩ | ⟨P, -, e⟩ | ⟨τ, -, -, rfl⟩ | ⟨m, rfl, rfl⟩ | ⟨-, rfl⟩ | ⟨-, r, rfl⟩ := exec_cases hexec
  · rw [State.feedByte_frame]
    exact ⟨rfl, fun h => absurd rfl h⟩
  · rw [e]
    exact ⟨rfl, fun h => absurd rfl h⟩
  · rw [State.receivePacket_frame]
    exact ⟨rfl, fun h => absurd rfl h⟩
  · exact ⟨rfl, fun _ => rfl⟩
  · exact ⟨rfl, fun h => absurd rfl h⟩
  · exact ⟨rfl, fun h => absurd rfl h⟩

end Sys2Proof.Machine
end

section
/-! What an Idle decoder still holds (spec/10_state.md R28): a relation between two states that no operation breaks and that
no observation sees. While a frame is in progress the two decoders agree on what the frame has written so far; the rest of the
accumulator may differ, and every field of it is written before a packet is built from it. -/

namespace Sys2Proof.Machine

/-! Two frame records -/

/-- Two records agree on the counters, the pending escape, the data, and each field whose position lies below `pos`. -/
structure FrameRec.AgreeBelow (m : Bool) (pos : Nat) (T T' : FrameRec) : Prop where
  cnt : T'.cnt = T.cnt
  exp : T'.exp = T.exp
  esc : T'.esc = T.esc
  data : T'.data = T.data
  addr : m = true → 1 < pos → T'.addr = T.addr
  cmd : 1 + m.toNat < pos → T'.cmd = T.cmd
  len : lengthPos m < pos → T'.len = T.len

/-- The frame-start values agree whatever the accumulators hold: no field lies below position 1. -/
theorem FrameRec.start_agreeBelow (m : Bool) (T T' : FrameRec) : (T.start m).AgreeBelow m 1 (T'.start m) where
  cnt := rfl
  exp := rfl
  esc := rfl
  data := rfl
  addr := fun _ h => absurd h (by omega)
  cmd := fun h => absurd h (by omega)
  len := fun h => absurd h (by simp [lengthPos])

theorem FrameRec.AgreeBelow.withEsc {m : Bool} {pos : Nat} {T T' : FrameRec} (h : T.AgreeBelow m pos T') (e : Bool) :
    ({ T with esc := e } : FrameRec).AgreeBelow m pos { T' with esc := e } :=
  { h with esc := rfl }

/-- The field dispatch at `pos` writes the same byte to both records, so they agree on one position more. -/
theorem FrameRec.AgreeBelow.place {m : Bool} {pos : Nat} {T T' : FrameRec} (h : T.AgreeBelow m pos T') (x : Byte) :
    (T.place m pos x).AgreeBelow m (pos + 1) (T'.place m pos x) := by
  obtain ⟨hcnt, hexp, hesc, hdata, haddr, hcmd, hlen⟩ := h
  have hl : lengthPos m = 2 + m.toNat := rfl
  have hpast : ¬ (m && pos == 1) = true → m = true → 1 < pos + 1 → 1 < pos := by
    intro hn hm hp
    have : pos ≠ 1 := by simpa [hm] using hn
    omega
  unfold FrameRec.place
  rw [hexp, hdata]
  split_ifs with h1 h2 h3 h4
  · obtain ⟨rfl, rfl⟩ : m = true ∧ pos = 1 := by simpa using h1
    exact ⟨hcnt, rfl, hesc, rfl, fun _ _ => rfl, fun h => absurd h (by decide), fun h => absurd h (by decide)⟩
  · exact ⟨hcnt, rfl, hesc, rfl, fun hm hp => haddr hm (hpast h1 hm hp), fun _ => rfl, fun h => by omega⟩
  · exact ⟨hcnt, rfl, hesc, rfl, fun hm hp => haddr hm (hpast h1 hm hp), fun _ => hcmd (by omega), fun _ => rfl⟩
  · exact ⟨hcnt, rfl, hesc, rfl, fun hm hp => haddr hm (hpast h1 hm hp), fun _ => hcmd (by omega),
      fun _ => hlen (by omega)⟩
  · exact ⟨hcnt, rfl, hesc, rfl, fun hm hp => haddr hm (hpast h1 hm hp), fun _ => hcmd (by omega),
      fun _ => hlen (by omega)⟩

/-- One logical byte consumed: the records agree below the position after it. -/
theorem FrameRec.AgreeBelow.consume {m : Bool} {T T' : FrameRec} (h : T.AgreeBelow m T.cnt.toNat T') (x : Byte) :
    (T.consume m x).AgreeBelow m (T.cnt.toNat + 1) (T'.consume m x) := by
  unfold FrameRec.consume
  rw [h.cnt]
  exact { h.place x with cnt := rfl }

theorem FrameRec.AgreeBelow.finished_eq {m : Bool} {pos : Nat} {T T' : FrameRec} (h : T.AgreeBelow m pos T') :
    T'.finished = T.finished := by
  rw [FrameRec.finished, FrameRec.finished, h.cnt, h.exp]

/-- Past the length byte every field of the packet has been written, up to the checksum byte. -/
theorem FrameRec.AgreeBelow.packet_eq {m : Bool} {pos : Nat} {T T' : FrameRec} (h : T.AgreeBelow m pos T')
    (hpos : lengthPos m < pos) (hck : T'.ck = T.ck) : T'.packet m = T.packet m := by
  have hl : lengthPos m = 2 + m.toNat := rfl
  rw [FrameRec.packet, FrameRec.packet, h.cmd (by omega), h.len hpos, h.data, hck]
  cases m with
  | false => rfl
  | true => rw [h.addr rfl (by omega)]

/-- The byte that finishes one frame finishes the other with the same packet: it is the checksum of both. -/
theorem FrameRec.AgreeBelow.consume_packet_eq {m : Bool} {T T' : FrameRec} (h : T.AgreeBelow m T.cnt.toNat T')
    (hp : T.InProgress m) {x : Byte} (hf : (T.consume m x).finished = true) :
    (T'.consume m x).packet m = (T.consume m x).packet m := by
  have he : T.cnt.toNat + 1 = T.exp.toNat := (FrameRec.consume_finished hp x).1 hf
  obtain ⟨hc, -⟩ := FrameRec.last_position hp he
  refine (h.consume x).packet_eq (by omega) ?_
  rw [FrameRec.consume_checksum hc (by omega),
    FrameRec.consume_checksum (by rw [h.cnt]; exact hc) (by rw [h.cnt, h.exp]; omega)]

/-! Two states -/

/-- Two states that differ only in what the decoder holds: anything while it is Idle, and while a frame is in progress only
the fields that frame has yet to write. -/
def State.SameButUnread (s u : State) : Prop :=
  ∃ (f : Bool) (d : FrameRec), u = { s with decFmode := f, dec := d } ∧
    (s.decActive = true →
      f = s.decFmode ∧ s.dec.InProgress s.decFmode ∧ s.dec.AgreeBelow s.decFmode s.dec.cnt.toNat d)

theorem State.sameButUnread_of_idle {s : State} (ha : s.decActive = false) (f : Bool) (d : FrameRec) :
    s.SameButUnread { s with decFmode := f, dec := d } :=
  ⟨f, d, rfl, fun h => absurd h (by simp [ha])⟩

theorem State.sameButUnread_of_receiving {s : State} {d : FrameRec} (hp : s.dec.InProgress s.decFmode)
    (h : s.dec.AgreeBelow s.decFmode s.dec.cnt.toNat d) : s.SameButUnread { s with dec := d } :=
  ⟨s.decFmode, d, rfl, fun _ => ⟨rfl, hp, h⟩⟩

/-- Two outcomes with related next states, or the same stop. -/
inductive SameOutcome : Host.Outcome State Fault Refusal → Host.Outcome State Fault Refusal → Prop where
  | next {s u : State} (h : s.SameButUnread u) : SameOutcome (.next s) (.next u)
  | fault (r : Fault) : SameOutcome (.fault r) (.fault r)
  | refused (r : Refusal) : SameOutcome (.refused r) (.refused r)

/-- An update that neither reads nor writes the decoder's elements. -/
def LeavesDecoder (g : State → State) : Prop :=
  ∀ (s : State) (a f : Bool) (d : FrameRec),
    g { s with decActive := a, decFmode := f, dec := d } = { g s with decActive := a, decFmode := f, dec := d }

theorem State.SameButUnread.lift {g : State → State} (hg : LeavesDecoder g) {s u : State} (h : s.SameButUnread u) :
    (g s).SameButUnread (g u) := by
  obtain ⟨f, d, rfl, h⟩ := h
  have hown : g s = { g s with decActive := s.decActive, decFmode := s.decFmode, dec := s.dec } :=
    hg s s.decActive s.decFmode s.dec
  refine ⟨f, d, (hg s s.decActive f d).trans ?_, ?_⟩
  · rw [hown]
  · rw [hown]
    exact h

theorem leavesDecoder_answer (r : Result) : LeavesDecoder (·.answer r) := fun _ _ _ _ => rfl

theorem State.SameButUnread.answer {s u : State} (h : s.SameButUnread u) (r : Result) :
    (s.answer r).SameButUnread (u.answer r) :=
  h.lift (leavesDecoder_answer r)

/-! FEED -/

/-- `COMPLETE()` of two records with one packet answers the same result and leaves both decoders Idle. -/
theorem State.completeFrame_sameButUnread {s : State} {d : FrameRec}
    (h : d.packet s.decFmode = s.dec.packet s.decFmode) :
    s.completeFrame.SameButUnread ({ s with dec := d } : State).completeFrame := by
  unfold State.completeFrame
  simp only [h]
  exact (State.sameButUnread_of_idle (s := { s with decActive := false, dec := s.dec.idle }) rfl s.decFmode d.idle).answer _

theorem State.feedLogical_sameButUnread {s : State} {d : FrameRec} (hp : s.dec.InProgress s.decFmode)
    (h : s.dec.AgreeBelow s.decFmode s.dec.cnt.toNat d) (x : Byte) :
    (s.feedLogical x).SameButUnread (({ s with dec := d } : State).feedLogical x) := by
  have hfin := (h.consume x).finished_eq
  unfold State.feedLogical
  simp only [hfin]
  cases hf : (s.dec.consume s.decFmode x).finished with
  | true => exact State.completeFrame_sameButUnread (s := { s with dec := _ }) (h.consume_packet_eq hp hf)
  | false =>
    have hne : s.dec.cnt.toNat + 1 ≠ s.dec.exp.toNat :=
      fun he => by simp [(FrameRec.consume_finished hp x).2 he] at hf
    have hcnt : (s.dec.consume s.decFmode x).cnt.toNat = s.dec.cnt.toNat + 1 := by
      rw [FrameRec.consume_cnt, count_toNat (by obtain ⟨⟨-, h2, h3⟩, -⟩ := hp; omega)]
    refine State.SameButUnread.answer (State.sameButUnread_of_receiving (s := { s with dec := _ }) ?_ ?_) .incomplete
    · exact FrameRec.consume_inProgress hp x hne
    · exact hcnt ▸ h.consume x

theorem State.feedReceiving_sameButUnread {s : State} {d : FrameRec} (hp : s.dec.InProgress s.decFmode)
    (h : s.dec.AgreeBelow s.decFmode s.dec.cnt.toNat d) (b : Byte) :
    (s.feedReceiving b).SameButUnread (({ s with dec := d } : State).feedReceiving b) := by
  unfold State.feedReceiving
  simp only [h.esc]
  split
  next => exact State.sameButUnread_of_receiving (s := s.enterBadEscape) hp h
  next p' _ =>
    exact State.SameButUnread.answer
      (State.sameButUnread_of_receiving (s := { s with dec := { s.dec with esc := p' } }) hp (h.withEsc p')) .incomplete
  next p' x _ =>
    exact State.feedLogical_sameButUnread (s := { s with dec := { s.dec with esc := p' } }) hp (h.withEsc p') x

theorem State.feedIdle_sameButUnread {s : State} (ha : s.decActive = false) (f : Bool) (d : FrameRec) (b : Byte) :
    (s.feedIdle b).SameButUnread (({ s with decFmode := f, dec := d } : State).feedIdle b) := by
  unfold State.feedIdle
  simp only
  split
  · exact (State.sameButUnread_of_receiving (s := s.startFrame) (FrameRec.start_inProgress _ _)
      (FrameRec.start_agreeBelow _ _ _)).answer _
  · exact (State.sameButUnread_of_idle ha f d).answer _

theorem State.SameButUnread.feedByte {s u : State} (h : s.SameButUnread u) (b : Byte) :
    (s.feedByte b).SameButUnread (u.feedByte b) := by
  obtain ⟨f, d, rfl, h⟩ := h
  obtain ha | ha := Bool.eq_false_or_eq_true s.decActive
  · obtain ⟨rfl, hp, hd⟩ := h ha
    rw [State.feedByte_active b ha, State.feedByte_active b (by exact ha)]
    exact State.feedReceiving_sameButUnread (s := { s with fedYet := true }) hp hd b
  · rw [State.feedByte_idle b ha, State.feedByte_idle b (by exact ha)]
    exact State.feedIdle_sameButUnread (s := { s with fedYet := true }) ha f d b

/-! The other operations, and runs -/

theorem State.SameButUnread.abandonFrame {s u : State} (h : s.SameButUnread u) :
    s.abandonFrame.SameButUnread u.abandonFrame := by
  obtain ⟨f, d, rfl, -⟩ := h
  exact State.sameButUnread_of_idle (s := s.abandonFrame) rfl f { d.idle with data := [] }

/-- ENCODE neither reads nor writes the decoder (10 R30, 42 R134). -/
theorem leavesDecoder_encodePacket (P : PacketRecord) : LeavesDecoder (·.encodePacket P) := by
  intro s a f d
  simp only [State.encodePacket]
  cases encodeError s.mode P with
  | none => rfl
  | some kind => rfl

/-- RECEIVE neither reads nor writes the decoder (10 R31, 44 R196). -/
theorem leavesDecoder_receivePacket (τ : Timeout) : LeavesDecoder (·.receivePacket τ) := by
  intro s a f d
  simp only [State.receivePacket_eq]
  cases (receiveFrame s.params τ s.mode s.rx).1 with
  | result r => rfl
  | badEscape => rfl

/-- The gate sees only `FAULT`, which related states share. -/
theorem State.SameButUnread.ifLive {s u : State} (h : s.SameButUnread u)
    {k k' : Host.Outcome State Fault Refusal} (hk : SameOutcome k k') : SameOutcome (s.ifLive k) (u.ifLive k') := by
  have hf : u.fault = s.fault := by
    obtain ⟨f, d, rfl, -⟩ := h
    rfl
  unfold State.ifLive
  rw [hf]
  cases s.fault with
  | true => exact .fault _
  | false => exact hk

/-- An operation that leaves the decoder alone, behind its gate. -/
theorem State.SameButUnread.ifLive_next {g : State → State} (hg : LeavesDecoder g) {s u : State}
    (h : s.SameButUnread u) : SameOutcome (s.ifLive (.next (g s))) (u.ifLive (.next (g u))) :=
  h.ifLive (.next (h.lift hg))

/-- A refusal that both sides share. -/
theorem SameOutcome.unless {s u : State} (h : s.SameButUnread u) (barred : Bool) (r : Refusal) :
    SameOutcome (if barred then .refused r else .next s) (if barred then .refused r else .next u) := by
  cases barred with
  | true => exact .refused r
  | false => exact .next h

/-- No operation breaks the relation, and none stops on one side only. -/
theorem exec_sameOutcome {s u : State} (h : s.SameButUnread u) (i : Instr) : SameOutcome (exec i s) (exec i u) := by
  cases i with
  | feed b =>
    have hb : u.feedBarred = s.feedBarred := by
      obtain ⟨f, d, rfl, -⟩ := h
      rfl
    rw [exec, exec, execFeed, execFeed, hb]
    exact h.ifLive (.unless (h.feedByte b) _ _)
  | receive τ =>
    have hb : u.receiveBarred = s.receiveBarred := by
      obtain ⟨f, d, rfl, -⟩ := h
      rfl
    rw [exec, exec, execReceive, execReceive, hb]
    exact h.ifLive (.unless (h.lift (leavesDecoder_receivePacket τ)) _ _)
  | decReset => exact h.ifLive (.next (h.abandonFrame.answer .ok))
  | encode P => exact h.ifLive_next (leavesDecoder_encodePacket P)
  | setMode m => exact h.ifLive_next (g := fun s => (s.writeMode m).answer .ok) fun _ _ _ _ => rfl
  | getMode => exact h.ifLive_next (g := fun s => s.answer (.okMode s.mode)) fun _ _ _ _ => rfl
  | escEnc b => exact h.ifLive_next (g := fun s => s.answer (.okBytes (escEnc s.params b))) fun _ _ _ _ => rfl
  | escDec p b => exact h.ifLive_next (g := fun s => s.answer (escDecResult s.params p b)) fun _ _ _ _ => rfl
  | ckCompute m P =>
    exact h.ifLive_next (g := fun s => s.answer (.okByte (computeCk s.params m P))) fun _ _ _ _ => rfl
  | ckVerify m P => exact h.ifLive_next (g := fun s => s.answer (.okBool (verifyCk s.params m P))) fun _ _ _ _ => rfl

theorem runOps_sameOutcome (ops : List Instr) {s u : State} (h : s.SameButUnread u) :
    SameOutcome (runOps ops s) (runOps ops u) := by
  induction ops generalizing s u with
  | nil => exact .next h
  | cons i ops ih =>
    have hexec := exec_sameOutcome h i
    unfold runOps
    generalize exec i s = o at hexec
    generalize exec i u = o' at hexec
    cases hexec with
    | next h' => exact ih h'
    | fault r => exact .fault r
    | refused r => exact .refused r

/-- The results, the TX log and `FAULT` are outside what related states may differ in. -/
theorem SameOutcome.observed_eq {o o' : Host.Outcome State Fault Refusal} (h : SameOutcome o o') :
    observed o' = observed o := by
  cases h with
  | next h =>
    obtain ⟨f, d, rfl, -⟩ := h
    rfl
  | fault r => rfl
  | refused r => rfl

/-- Settles O23: the two states are related while Idle, every run keeps the relation, and no observation sees past it. -/
theorem idleDecoderContentsUnobservable : Obligations.IdleDecoderContentsUnobservable := by
  unfold Obligations.IdleDecoderContentsUnobservable
  intro ops s f d ha
  exact (runOps_sameOutcome ops (State.sameButUnread_of_idle ha f d)).observed_eq

end Sys2Proof.Machine
end

section
/-! The host's side of the machine (spec/20_memory.md): which operation a step runs (R55), and the two streams and the results
under one operation (R51 to R53): they only grow, and each stream has one operation that touches it. -/

namespace Sys2Proof.Machine

/-! The step -/

/-- A live step with a legal word next is that word's operation, run with the request taken (60 R229). -/
theorem step_of_decode {s : State} {r : Request} {rest : List Request} {i : Instr} (hf : s.fault = false)
    (hp : s.pending = r :: rest) (hd : decode r = .ok i) : step s = exec i { s with pending := rest } := by
  have hnext : s.nextRequest = some (r, { s with pending := rest }) :=
    State.nextRequest_eq_some.2 ⟨rest, hp, rfl⟩
  simp only [step, State.ifLive_of_live hf, hnext, hd]

/-- Settles O6: the `FAULT` gate is open, and neither the waiting arm nor that of an illegal word is taken. -/
theorem stepRunsDecodedOperation : Obligations.StepRunsDecodedOperation := by
  unfold Obligations.StepRunsDecodedOperation
  exact fun _ _ _ _ => step_of_decode

/-! The results grow -/

theorem State.results_prefix_answer (s : State) (r : Result) : s.results <+: (s.answer r).results :=
  List.prefix_append _ _

theorem State.results_prefix_completeFrame (s : State) : s.results <+: s.completeFrame.results :=
  State.results_prefix_answer { s with decActive := false, dec := s.dec.idle } _

theorem State.results_prefix_feedLogical (s : State) (x : Byte) : s.results <+: (s.feedLogical x).results := by
  obtain ⟨-, e⟩ | ⟨-, e⟩ := s.feedLogical_eq x <;> rw [e]
  · exact State.results_prefix_completeFrame { s with dec := s.dec.consume s.decFmode x }
  · exact State.results_prefix_answer { s with dec := _ } _

theorem State.results_prefix_feedByte (s : State) (b : Byte) : s.results <+: (s.feedByte b).results := by
  obtain ⟨-, -, e⟩ | ⟨-, -, e⟩ | ⟨-, -, -, e⟩ | ⟨-, y, -, e⟩ | ⟨-, -, -, -, e⟩ := s.feedByte_cases b <;> rw [e]
  · exact State.results_prefix_answer { s with fedYet := true } _
  · exact State.results_prefix_answer ({ s with fedYet := true } : State).startFrame _
  · exact State.results_prefix_answer { s with fedYet := true, dec := _ } _
  · exact State.results_prefix_feedLogical { s with fedYet := true, dec := _ } y
  · exact List.prefix_rfl

theorem State.results_prefix_endReceive (s : State) (e : RxEnd) : s.results <+: (s.endReceive e).results := by
  cases e with
  | result r => exact s.results_prefix_answer r
  | badEscape => exact List.prefix_rfl

theorem State.results_prefix_receivePacket (s : State) (τ : Timeout) : s.results <+: (s.receivePacket τ).results :=
  State.results_prefix_endReceive { s with rx := _, receivedYet := true } _

theorem State.results_prefix_encodePacket (s : State) (P : PacketRecord) : s.results <+: (s.encodePacket P).results := by
  obtain ⟨-, e⟩ | ⟨-, -, -, e⟩ | ⟨-, e⟩ := s.encodePacket_cases P <;> rw [e]
  · exact s.results_prefix_answer _
  · exact s.results_prefix_answer _
  · rw [State.transmit_eq]
    exact State.results_prefix_answer { s with tx := _ } _

/-! The TX log grows -/

/-- A write appends what reaches TX (20 R52, R53). -/
theorem txWrite_log (bytes : List Byte) (x : TxStream) :
    (txWrite bytes x).2.log = x.log ++ sentBytes (txAnswer x).1 bytes := by
  rw [txWrite_eq]

theorem State.log_prefix_encodePacket (s : State) (P : PacketRecord) : s.tx.log <+: (s.encodePacket P).tx.log := by
  obtain ⟨-, e⟩ | ⟨-, -, -, e⟩ | ⟨-, e⟩ := s.encodePacket_cases P <;> rw [e]
  · exact List.prefix_rfl
  · exact List.prefix_rfl
  · rw [State.transmit_eq, State.answer_tx, txWrite_log]
    exact List.prefix_append _ _

/-! One operation -/

theorem exec_results_prefix {i : Instr} {s t : State} (h : exec i s = .next t) : s.results <+: t.results := by
  obtain ⟨b, -, -, rfl⟩ | ⟨P, rfl, -⟩ | ⟨τ, -, -, rfl⟩ | ⟨m, -, rfl⟩ | ⟨-, rfl⟩ | ⟨-, r, rfl⟩ := exec_cases h
  · exact s.results_prefix_feedByte b
  · obtain ⟨-, rfl⟩ := execEncode_eq_next.1 h
    exact s.results_prefix_encodePacket P
  · exact s.results_prefix_receivePacket τ
  · exact (s.writeMode m).results_prefix_answer .ok
  · exact s.abandonFrame.results_prefix_answer .ok
  · exact s.results_prefix_answer r

/-- ENCODE is the only operation that touches TX (20 R52). -/
theorem exec_tx_cases {i : Instr} {s t : State} (h : exec i s = .next t) :
    (∃ P, i = .encode P ∧ t = s.encodePacket P) ∨ t.tx = s.tx := by
  obtain ⟨b, -, -, rfl⟩ | ⟨P, rfl, -⟩ | ⟨τ, -, -, rfl⟩ | ⟨m, -, rfl⟩ | ⟨-, rfl⟩ | ⟨-, r, rfl⟩ := exec_cases h
  · rw [State.feedByte_frame]
    exact .inr rfl
  · exact .inl ⟨P, rfl, (execEncode_eq_next.1 h).2.symm⟩
  · rw [State.receivePacket_frame]
    exact .inr rfl
  · exact .inr rfl
  · exact .inr rfl
  · exact .inr rfl

/-- RECEIVE is the only operation that reads RX (20 R51). -/
theorem exec_rx_cases {i : Instr} {s t : State} (h : exec i s = .next t) :
    (∃ τ, i = .receive τ ∧ t = s.receivePacket τ) ∨ t.rx = s.rx := by
  obtain ⟨b, -, -, rfl⟩ | ⟨P, -, e⟩ | ⟨τ, rfl, -, rfl⟩ | ⟨m, -, rfl⟩ | ⟨-, rfl⟩ | ⟨-, r, rfl⟩ := exec_cases h
  · rw [State.feedByte_frame]
    exact .inr rfl
  · rw [e]
    exact .inr rfl
  · exact .inl ⟨τ, rfl, rfl⟩
  · exact .inr rfl
  · exact .inr rfl
  · exact .inr rfl

theorem exec_log_prefix {i : Instr} {s t : State} (h : exec i s = .next t) : s.tx.log <+: t.tx.log := by
  obtain ⟨P, -, rfl⟩ | htx := exec_tx_cases h
  · exact s.log_prefix_encodePacket P
  · rw [htx]

/-- Settles O52: the log and the results are appended to, and a stream that changed rules out every operation but its own. -/
theorem streamsTouchedOnlyByTheirOperation : Obligations.StreamsTouchedOnlyByTheirOperation := by
  unfold Obligations.StreamsTouchedOnlyByTheirOperation
  intro i s t hexec
  refine ⟨exec_log_prefix hexec, exec_results_prefix hexec, fun htx => ?_, fun hrx => ?_⟩
  · obtain ⟨P, hi, -⟩ := (exec_tx_cases hexec).resolve_right htx
    exact ⟨P, hi⟩
  · obtain ⟨τ, hi, -⟩ := (exec_rx_cases hexec).resolve_right hrx
    exact ⟨τ, hi⟩

end Sys2Proof.Machine
end

section
/-! Operation words (spec/30_encoding.md R80 to R83): the operand fields of a word, the rows of the operation map by their
`op`, and decoding against encoding. -/

namespace Sys2Proof

/-! The operand fields of an encoded word (30 R81) -/

/-- A byte operand laid over a word whose low byte is free. -/
theorem byteField_or_zeroExtend {w : OpWord} (h : byteField w = 0) (b : Byte) :
    byteField (w ||| b.zeroExtend 16) = b := by
  unfold byteField BitVec.truncate BitVec.zeroExtend at *
  rw [BitVec.setWidth_or, h, BitVec.setWidth_setWidth_of_le b (by decide)]
  simp

theorem modeField_or_modeBit {w : OpWord} (h : modeField w = false) (m : Bool) : modeField (w ||| modeBit m) = m := by
  unfold modeField at *
  rw [BitVec.getLsbD_or, h]
  cases m <;> rfl

theorem byteField_escDecWord (p : Bool) : byteField (0x8000 ||| pendingBit p) = 0 := by
  cases p <;> decide

theorem pendingField_escDecWord (p : Bool) (b : Byte) :
    pendingField (0x8000 ||| pendingBit p ||| b.zeroExtend 16) = p := by
  have hb : (b.zeroExtend 16).getLsbD 8 = false := by simp
  unfold pendingField
  rw [BitVec.getLsbD_or, hb]
  cases p <;> rfl

/-! Decode after encode -/

theorem selectOp_encode (i : Instr) : selectOp (encode i).word = some (Laws.OpWord.opOf i) := by
  cases i with
  | feed b => exact Laws.OpWord.feed b
  | encode P => exact Laws.OpWord.encode P
  | receive t => exact Laws.OpWord.receive t
  | setMode m => exact Laws.OpWord.setMode m
  | getMode => exact Laws.OpWord.getMode
  | decReset => exact Laws.OpWord.decReset
  | escEnc b => exact Laws.OpWord.escEnc b
  | escDec p b => exact Laws.OpWord.escDec p b
  | ckCompute m P => exact Laws.OpWord.ckCompute m P
  | ckVerify m P => exact Laws.OpWord.ckVerify m P

/-- Assembling the operands of an encoded operation gives them back (30 R81). -/
theorem instrOf_encode (i : Instr) : instrOf (Laws.OpWord.opOf i) (encode i).word (encode i).operands = i := by
  cases i with
  | feed b => exact congrArg Instr.feed (byteField_or_zeroExtend (by decide) b)
  | encode P => rfl
  | receive t => rfl
  | setMode m => exact congrArg Instr.setMode (modeField_or_modeBit (by decide) m)
  | getMode => rfl
  | decReset => rfl
  | escEnc b => exact congrArg Instr.escEnc (byteField_or_zeroExtend (by decide) b)
  | escDec p b =>
    exact congrArg₂ Instr.escDec (pendingField_escDecWord p b) (byteField_or_zeroExtend (byteField_escDecWord p) b)
  | ckCompute m P => exact congrArg (Instr.ckCompute · P) (modeField_or_modeBit (by decide) m)
  | ckVerify m P => exact congrArg (Instr.ckVerify · P) (modeField_or_modeBit (by decide) m)

theorem decode_encode (i : Instr) : decode (encode i) = .ok i := by
  rw [decode_of_selects (selectOp_encode i), instrOf_encode]

/-- Settles O1: the word of an operation selects its own row, and its operand fields hold its operands. -/
theorem decodeEncodeRoundTrip : Obligations.DecodeEncodeRoundTrip := by
  unfold Obligations.DecodeEncodeRoundTrip
  exact fun i _ => decode_encode i

/-- Settles O5: the ten requests of V-X1 are the encodings of its table's operations. -/
theorem operationWordsDecode : Obligations.OperationWordsDecode := by
  unfold Obligations.OperationWordsDecode
  exact ⟨decode_encode (.feed 0xC0), decode_encode (.encode { addr := 0x05, cmd := 0x10, n := 1, data := [0xAA] }),
    decode_encode (.receive { token := 7 }), decode_encode (.setMode true), decode_encode .getMode,
    decode_encode .decReset, decode_encode (.escEnc 0xDB), decode_encode (.escDec true 0xDC),
    decode_encode (.ckCompute true { addr := 0x7F, cmd := 0x20, n := 0, data := [] }),
    decode_encode (.ckVerify false { addr := 0, cmd := 0x20, n := 0, data := [], ck := 0x20 })⟩

/-! The rows of the operation map (30 R82) -/

theorem OpRow.selects_iff (row : OpRow) (w : OpWord) : row.selects w = true ↔ w &&& row.mask = row.pattern := by
  simp [OpRow.selects]

/-- Every mask covers the field `op`. -/
theorem opMap_mask_covers_op : ∀ row ∈ opMap, row.mask >>> 12 = 0xF := by decide

theorem opMap_op_injective : ∀ a ∈ opMap, ∀ b ∈ opMap, a.pattern >>> 12 = b.pattern >>> 12 → a = b := by decide

theorem opMap_op_values : ∀ k < 16, (∃ row ∈ opMap, (row.pattern >>> 12).toNat = k) ↔ k ≠ 0 ∧ k < 0xB := by decide

theorem op_toNat_lt (w : OpWord) : (w >>> 12).toNat < 16 := by
  have := w.isLt
  rw [BitVec.toNat_ushiftRight, Nat.shiftRight_eq_div_pow]
  omega

/-- A row has the `op` of every word that selects it. -/
theorem OpRow.op_of_selects {row : OpRow} (hrow : row ∈ opMap) {w : OpWord} (h : row.selects w = true) :
    row.pattern >>> 12 = w >>> 12 := by
  have hop : w >>> 12 &&& (0xF : OpWord) = w >>> 12 := by
    apply BitVec.eq_of_toNat_eq
    rw [BitVec.toNat_and]
    exact (Nat.and_two_pow_sub_one_eq_mod _ 4).trans (Nat.mod_eq_of_lt (op_toNat_lt w))
  rw [← (row.selects_iff w).1 h, BitVec.ushiftRight_and_distrib, opMap_mask_covers_op row hrow, hop]

/-- The words whose `op` has a row. -/
theorem exists_row_of_op_iff (w : OpWord) :
    (∃ row ∈ opMap, row.pattern >>> 12 = w >>> 12) ↔ w >>> 12 ≠ 0 ∧ (w >>> 12).toNat < 0xB := by
  have hval := opMap_op_values _ (op_toNat_lt w)
  have hzero : w >>> 12 = 0 ↔ (w >>> 12).toNat = 0 := BitVec.toNat_eq
  simpa only [← BitVec.toNat_eq, ne_eq, ← hzero] using hval

/-- Settles O4: two rows that one word selects have one `op`, and no two rows of the map do. -/
theorem operationMapRowsDisjoint : Obligations.OperationMapRowsDisjoint := by
  unfold Obligations.OperationMapRowsDisjoint
  have hnodup : opMap.Nodup := by decide
  refine hnodup.imp_of_mem fun ha hb hne w ⟨hwa, hwb⟩ => hne ?_
  exact opMap_op_injective _ ha _ hb ((OpRow.op_of_selects ha hwa).trans (OpRow.op_of_selects hb hwb).symm)

/-- The operation a word selects is that of a row of the map that the word selects. -/
theorem selectOp_eq_some {w : OpWord} {op : Op} (h : selectOp w = some op) :
    ∃ row ∈ opMap, row.selects w = true ∧ row.op = op := by
  obtain ⟨row, hfind, hop⟩ := Option.map_eq_some_iff.1 h
  exact ⟨row, List.mem_of_find?_eq_some hfind, List.find?_some (p := fun row : OpRow => row.selects w) hfind, hop⟩

theorem selectOp_eq_none_iff {w : OpWord} : selectOp w = none ↔ ∀ row ∈ opMap, ¬ row.selects w = true := by
  rw [selectOp, Option.map_eq_none_iff, List.find?_eq_none]

/-! Encode after decode -/

theorem zeroExtend_byteField (w : OpWord) : (byteField w).zeroExtend 16 = w &&& 0xFF := by
  apply BitVec.eq_of_toNat_eq
  rw [BitVec.toNat_and]
  refine Eq.trans ?_ (Nat.and_two_pow_sub_one_eq_mod _ 8).symm
  simp only [byteField, BitVec.truncate, BitVec.zeroExtend, BitVec.toNat_setWidth]
  omega

theorem modeBit_modeField (w : OpWord) : modeBit (modeField w) = w &&& 0x1 :=
  (BitVec.and_twoPow w 0).symm

theorem pendingBit_pendingField (w : OpWord) : pendingBit (pendingField w) = w &&& 0x100 :=
  (BitVec.and_twoPow w 8).symm

/-- The operand bits of ESC_DEC: `p` above `b`. -/
theorem escDec_operand_bits (w : OpWord) :
    pendingBit (pendingField w) ||| (byteField w).zeroExtend 16 = w &&& (0x100 ||| 0xFF) := by
  rw [pendingBit_pendingField, zeroExtend_byteField, BitVec.and_or_distrib_left]

/-- A mask that covers the whole word leaves no operand bit. -/
theorem or_and_not_fullMask (pattern w : OpWord) : pattern = pattern ||| (w &&& ~~~0xFFFF) := by simp

/-- The word of an operation assembled from `w` by a row has the row's fixed bits, and `w`'s bits elsewhere: every bit the
mask leaves out is an operand bit (30 R80, R82). The cases are the rows in the map's order. -/
theorem encode_instrOf_word {row : OpRow} (hrow : row ∈ opMap) (w : OpWord) (o : Operands) :
    (encode (instrOf row.op w o)).word = row.pattern ||| (w &&& ~~~row.mask) := by
  fin_cases hrow
  · exact congrArg (0x1000 ||| ·) (zeroExtend_byteField w)
  · exact or_and_not_fullMask 0x2000 w
  · exact or_and_not_fullMask 0x3000 w
  · exact congrArg (0x4000 ||| ·) (modeBit_modeField w)
  · exact or_and_not_fullMask 0x5000 w
  · exact or_and_not_fullMask 0x6000 w
  · exact congrArg (0x7000 ||| ·) (zeroExtend_byteField w)
  · exact (BitVec.or_assoc _ _ _).trans (congrArg (0x8000 ||| ·) (escDec_operand_bits w))
  · exact congrArg (0x9000 ||| ·) (modeBit_modeField w)
  · exact congrArg (0xA000 ||| ·) (modeBit_modeField w)

theorem and_mask_or_and_not_mask (w mask : OpWord) : (w &&& mask) ||| (w &&& ~~~mask) = w := by
  rw [← BitVec.and_or_distrib_left, BitVec.or_not_self, BitVec.and_allOnes]

theorem encode_word_of_decode {r : Request} {i : Instr} (h : decode r = .ok i) : (encode i).word = r.word := by
  obtain ⟨op, hop, rfl⟩ := selects_of_decode h
  obtain ⟨row, hrow, hsel, rfl⟩ := selectOp_eq_some hop
  rw [encode_instrOf_word hrow, ← (row.selects_iff _).1 hsel, and_mask_or_and_not_mask]

/-- Settles O2: the encoding has the fixed bits that the word matched and the operand bits it was assembled from. -/
theorem decodedWordIsItsEncoding : Obligations.DecodedWordIsItsEncoding := by
  unfold Obligations.DecodedWordIsItsEncoding
  exact fun _ _ => encode_word_of_decode

/-! Illegal words (30 R83) -/

/-- A word is illegal exactly when it selects no row. -/
theorem decode_eq_error_iff {r : Request} :
    (∃ e, decode r = .error e) ↔ ∀ row ∈ opMap, ¬ row.selects r.word = true := by
  rw [← selectOp_eq_none_iff]
  cases hs : selectOp r.word with
  | none => simp [decode_of_selects_none hs]
  | some op => simp [decode_of_selects hs]

/-- No row is selected: the word's `op` has no row, or its row's fixed bits differ. -/
theorem selects_no_row_iff (w : OpWord) :
    (∀ row ∈ opMap, ¬ row.selects w = true) ↔
      w >>> 12 = 0 ∨ 0xB ≤ (w >>> 12).toNat ∨
        ∃ row ∈ opMap, row.pattern >>> 12 = w >>> 12 ∧ w &&& row.mask ≠ row.pattern := by
  constructor
  · intro h
    by_cases hop : ∃ row ∈ opMap, row.pattern >>> 12 = w >>> 12
    · obtain ⟨row, hrow, hop⟩ := hop
      exact .inr (.inr ⟨row, hrow, hop, fun hw => h row hrow ((row.selects_iff w).2 hw)⟩)
    · rw [exists_row_of_op_iff] at hop
      by_cases hzero : w >>> 12 = 0
      · exact .inl hzero
      · exact .inr (.inl (Nat.not_lt.1 fun hlt => hop ⟨hzero, hlt⟩))
  · intro h row hrow hsel
    have hop := OpRow.op_of_selects hrow hsel
    obtain ⟨hne, hlt⟩ := (exists_row_of_op_iff w).1 ⟨row, hrow, hop⟩
    obtain h | h | ⟨row', hrow', hop', hw⟩ := h
    · exact hne h
    · omega
    · obtain rfl := opMap_op_injective row hrow row' hrow' (hop.trans hop'.symm)
      exact hw ((row.selects_iff w).1 hsel)

namespace Machine

/-- A live step with an illegal word next answers `Error(IllegalOp)`, with the request taken (60 R224, R229). -/
theorem step_of_decode_error {s : State} {r : Request} {rest : List Request} {e : IllegalWord} (hf : s.fault = false)
    (hp : s.pending = r :: rest) (hd : decode r = .error e) :
    step s = .next ({ s with pending := rest } : State).answerIllegal := by
  have hnext : s.nextRequest = some (r, { s with pending := rest }) :=
    State.nextRequest_eq_some.2 ⟨rest, hp, rfl⟩
  simp only [step, State.ifLive_of_live hf, hnext, hd]

end Machine

/-- Settles O3: an illegal word selects no row, by its `op` or by its row's fixed bits, and the step takes the arm of an
illegal word. -/
theorem illegalWordsAnswerIllegalOp : Obligations.IllegalWordsAnswerIllegalOp := by
  unfold Obligations.IllegalWordsAnswerIllegalOp
  exact ⟨fun r => decode_eq_error_iff.trans (selects_no_row_iff r.word), fun _ _ _ _ => Machine.step_of_decode_error⟩

end Sys2Proof
end

section
/-! The lengths of frames (spec/30_encoding.md R79): logical frames, stuffing, wire frames, and the range of the counters. -/

namespace Sys2Proof.Machine

theorem addressBytes_length (m : Bool) (P : PacketRecord) : (addressBytes m P).length = m.toNat := by
  cases m <;> rfl

theorem logicalFrame_length (c : Params) (m : Bool) (P : PacketRecord) :
    (logicalFrame c m P).length = headerTotal m + P.data.length := by
  simp only [logicalFrame, headerTotal, List.length_append, List.length_cons, List.length_nil, addressBytes_length]
  omega

/-- How many wire bytes one logical byte takes: `w(b)` of 30 R79. -/
def wireWidth (c : Params) (b : Byte) : Nat := if b = c.fend ∨ b = c.fesc then 2 else 1

theorem escEnc_length (c : Params) (b : Byte) : (escEnc c b).length = wireWidth c b := by
  by_cases hend : b = c.fend
  · simp [wireWidth, hend]
  · by_cases hesc : b = c.fesc
    · simp [wireWidth, hesc]
    · simp [wireWidth, escEnc_plain, hend, hesc]

theorem stuff_length (c : Params) (L : List Byte) : (stuff c L).length = (L.map (wireWidth c)).sum := by
  induction L with
  | nil => rfl
  | cons b L ih => simp [escEnc_length, ih]

theorem wireWidth_bounds (c : Params) (b : Byte) : 1 ≤ wireWidth c b ∧ wireWidth c b ≤ 2 := by
  unfold wireWidth
  split <;> simp

theorem stuff_length_bounds (c : Params) (L : List Byte) :
    L.length ≤ (stuff c L).length ∧ (stuff c L).length ≤ 2 * L.length := by
  induction L with
  | nil => simp
  | cons b L ih =>
    obtain ⟨hlo, hhi⟩ := wireWidth_bounds c b
    simp only [stuff_cons, List.length_append, List.length_cons, escEnc_length]
    omega

theorem wireFrame_length (c : Params) (m : Bool) (P : PacketRecord) :
    (wireFrame c m P).length = 1 + (stuff c (logicalFrame c m P).tail).length := by
  rw [wireFrame, List.length_append, List.length_singleton]

/-- With the decoder's invariants `DEC_CNT` is at most `DEC_EXP`, and that at most 260 (10 R29). -/
theorem State.DecInv.counters_le {s : State} (h : s.DecInv) : s.dec.cnt.toNat ≤ 260 ∧ s.dec.exp.toNat ≤ 260 := by
  obtain ⟨hidle, hactive⟩ := h
  cases ha : s.decActive with
  | false =>
    obtain ⟨hcnt, hexp, -⟩ := hidle ha
    simp [hcnt, hexp]
  | true =>
    obtain ⟨⟨-, hlt, hle⟩, -⟩ := hactive ha
    exact ⟨by omega, hle⟩

/-- Settles O32: the fields of the logical frame are counted, stuffing at most doubles all but its first byte, and the
invariants bound the counters. -/
theorem frameLengthBounds : Obligations.FrameLengthBounds := by
  unfold Obligations.FrameLengthBounds
  refine ⟨fun c m P hP => ?_, fun _ => State.DecInv.counters_le⟩
  have hn := P.n.isLt
  have hlen : (logicalFrame c m P).length = (if m then 5 else 4) + P.n.toNat := by
    rw [logicalFrame_length, hP]
    cases m <;> rfl
  have hhead : 4 ≤ (if m then 5 else 4) ∧ (if m then 5 else 4) ≤ 5 := by cases m <;> decide
  obtain ⟨hlo, hhi⟩ := stuff_length_bounds c (logicalFrame c m P).tail
  rw [List.length_tail, hlen] at hlo hhi
  have hwire := wireFrame_length c m P
  refine ⟨hlen, by omega, by omega, ?_, by omega, by omega⟩
  rw [hwire, stuff_length]
  rfl

end Sys2Proof.Machine
end

section
/-! The pseudo-operations of the assembler (spec/30_encoding.md R88). -/

namespace Sys2Proof.Machine

theorem byteArg_num_toNat (b : Byte) : byteArg (.num b.toNat) = some b := by
  simp [byteArg, b.isLt]

/-- `FEEDS` assembles one FEED for each of its arguments. -/
theorem expandAsm_feeds_cons (a : AsmArg) (args : List AsmArg) :
    expandAsm .feeds (a :: args) = (a :: args).mapM (asmInstr .feed [·]) := rfl

theorem asmInstr_feed_num (b : Byte) : asmInstr .feed [.num b.toNat] = some (.feed b) := by
  simp [asmInstr, byteArg_num_toNat]

theorem expandAsm_feeds (b : Byte) (bytes : List Byte) :
    expandAsm .feeds ((b :: bytes).map fun x => .num x.toNat) = some (feeds (b :: bytes)) := by
  have hfeed : (asmInstr .feed [·]) ∘ (fun x : Byte => .num x.toNat) = fun x => some (Instr.feed x) :=
    funext asmInstr_feed_num
  calc expandAsm .feeds ((b :: bytes).map fun x => .num x.toNat)
      = ((b :: bytes).map fun x => .num x.toNat).mapM (asmInstr .feed [·]) := expandAsm_feeds_cons _ _
    _ = (b :: bytes).mapM fun x => some (Instr.feed x) := by rw [List.mapM_map, hfeed]
    _ = some (feeds (b :: bytes)) := List.mapM_pure

/-- Settles O60: each byte's number reads back as the byte, and `SEND` stands in the table of mnemonics with ENCODE's
operation. -/
theorem pseudoOperationsExpand : Obligations.PseudoOperationsExpand := by
  unfold Obligations.PseudoOperationsExpand
  exact ⟨expandAsm_feeds, by decide, by decide, by decide⟩

end Sys2Proof.Machine
end

section
/-! The Escape Codec (spec/40_escape_codec.md R100 to R106): the two host operations, and stuffing against unstuffing. -/

namespace Sys2Proof.Machine

/-! The host operations -/

theorem exec_escEnc_of_live {s : State} (h : s.fault = false) (b : Byte) :
    exec (.escEnc b) s = .next (s.answer (.okBytes (escEnc s.params b))) :=
  State.ifLive_of_live h

theorem exec_escDec_of_live {s : State} (h : s.fault = false) (p : Bool) (b : Byte) :
    exec (.escDec p b) s = .next (s.answer (escDecResult s.params p b)) :=
  State.ifLive_of_live h

/-- Settles O53: the word is the operation's encoding, and a live state is answered the bytes of `escEnc`. -/
theorem escEncStuffsOneByte : Obligations.EscEncStuffsOneByte := by
  unfold Obligations.EscEncStuffsOneByte
  exact fun b _ => ⟨decode_encode (.escEnc b), fun h => exec_escEnc_of_live h b⟩

/-- The result of ESC_DEC with nothing pending: every byte but the escape marker stands for itself (40 R102). -/
theorem escDecResult_false (c : Params) (b : Byte) :
    escDecResult c false b = if b = c.fesc then .okEscape true none else .okEscape false (some b) := by
  by_cases h : b = c.fesc
  · simp [escDecResult, h]
  · simp [escDecResult, escDec_false_plain c h, h]

/-- The result of ESC_DEC with an escape pending: only the two operands are defined (40 R102). -/
theorem escDecResult_true (c : Params) (b : Byte) :
    escDecResult c true b =
      if b = c.tfend then .okEscape false (some c.fend)
      else if b = c.tfesc then .okEscape false (some c.fesc)
      else .error .badEscape := by
  by_cases h : b = c.tfend
  · simp [escDecResult, h]
  · by_cases h' : b = c.tfesc
    · simp [escDecResult, h', c.tfend_ne_tfesc.symm]
    · simp [escDecResult, escDec_true_bad c h h', h, h']

/-- Settles O54: the word is the operation's encoding, and a live state is answered `escDecResult`, told for each value of
the pending flag. -/
theorem escDecUnstuffsOneByte : Obligations.EscDecUnstuffsOneByte := by
  unfold Obligations.EscDecUnstuffsOneByte
  refine fun p b s => ⟨decode_encode (.escDec p b), fun h => ?_⟩
  rw [exec_escDec_of_live h]
  cases p with
  | false => rw [escDecResult_false]; rfl
  | true => rw [escDecResult_true]; rfl

/-! Stuffing -/

theorem stuff_append (c : Params) (L L' : List Byte) : stuff c (L ++ L') = stuff c L ++ stuff c L' := by
  induction L with
  | nil => rfl
  | cons b L ih => simp [ih]

theorem wireWidth_eq_one_add (c : Params) (b : Byte) :
    wireWidth c b = 1 + if (b == c.fend || b == c.fesc) = true then 1 else 0 := by
  by_cases h : b = c.fend ∨ b = c.fesc <;> simp [wireWidth, h]

/-- Each marker byte costs one wire byte more than its own (40 R101). -/
theorem stuff_length_eq_add_countP (c : Params) (L : List Byte) :
    (stuff c L).length = L.length + L.countP (fun b => b == c.fend || b == c.fesc) := by
  induction L with
  | nil => rfl
  | cons b L ih =>
    rw [stuff_cons, List.length_append, escEnc_length, wireWidth_eq_one_add, ih, List.length_cons, List.countP_cons]
    omega

/-- Settles O33: `stuff` joins the bytes' encodings in order, the markers' encodings are one byte longer, and `drop 1` is
the encoder's tail. -/
theorem stuffingKeepsOrderAndLength : Obligations.StuffingKeepsOrderAndLength := by
  unfold Obligations.StuffingKeepsOrderAndLength
  exact fun c => ⟨stuff_nil c, stuff_cons c, stuff_length_eq_add_countP c, stuff_append c,
    fun m P => by rw [List.drop_one]; rfl⟩

/-- The wire bytes of one logical byte: a marker's escape pair, or the byte alone (40 R100). -/
theorem escEnc_cases (c : Params) (b : Byte) :
    (b = c.fend ∧ escEnc c b = [c.fesc, c.tfend]) ∨
    (b = c.fesc ∧ escEnc c b = [c.fesc, c.tfesc]) ∨
    (b ≠ c.fend ∧ b ≠ c.fesc ∧ escEnc c b = [b]) := by
  by_cases hend : b = c.fend
  · exact .inl ⟨hend, by rw [hend, escEnc_fend]⟩
  · by_cases hesc : b = c.fesc
    · exact .inr (.inl ⟨hesc, by rw [hesc, escEnc_fesc]⟩)
    · exact .inr (.inr ⟨hend, hesc, escEnc_plain c hend hesc⟩)

/-- By the constants' well-formedness no byte of an escape pair is `FEND` (30 R76 (a), (c), (d)). -/
theorem fend_notMem_escEnc (c : Params) (b : Byte) : c.fend ∉ escEnc c b := by
  obtain ⟨-, he⟩ | ⟨-, he⟩ | ⟨hend, -, he⟩ := escEnc_cases c b
  · simp [he, c.fesc_ne_fend.symm, c.tfend_ne_fend.symm]
  · simp [he, c.fesc_ne_fend.symm, c.tfesc_ne_fend.symm]
  · simp [he, hend.symm]

theorem fend_notMem_stuff (c : Params) (L : List Byte) : c.fend ∉ stuff c L := by
  induction L with
  | nil => simp
  | cons b L ih => simp [fend_notMem_escEnc, ih]

/-- Settles O34: `FEND` is in no byte's encoding, so it is in no stuffed sequence. -/
theorem stuffedBytesHoldNoStartMarker : Obligations.StuffedBytesHoldNoStartMarker := by
  unfold Obligations.StuffedBytesHoldNoStartMarker
  exact fun c L _ hb => ne_of_mem_of_not_mem hb (fend_notMem_stuff c L)

/-! Unstuffing -/

theorem unstuffFrom_of_nothing {c : Params} {p p' : Bool} {b : Byte} (h : escDec c p b = (p', .nothing))
    (W acc : List Byte) : unstuffFrom c p (b :: W) acc = unstuffFrom c p' W acc := by
  rw [unstuffFrom, h]

theorem unstuffFrom_of_byte {c : Params} {p p' : Bool} {b x : Byte} (h : escDec c p b = (p', .byte x))
    (W acc : List Byte) : unstuffFrom c p (b :: W) acc = unstuffFrom c p' W (acc ++ [x]) := by
  rw [unstuffFrom, h]

/-- Reading the wire bytes of one logical byte gives that byte and leaves nothing pending: the one-byte round trip that
R105 rests on. -/
theorem unstuffFrom_escEnc_append (c : Params) (b : Byte) (W acc : List Byte) :
    unstuffFrom c false (escEnc c b ++ W) acc = unstuffFrom c false W (acc ++ [b]) := by
  obtain ⟨rfl, he⟩ | ⟨rfl, he⟩ | ⟨-, hesc, he⟩ := escEnc_cases c b
  · rw [he]
    exact (unstuffFrom_of_nothing (escDec_false_fesc c) _ _).trans (unstuffFrom_of_byte (escDec_true_tfend c) _ _)
  · rw [he]
    exact (unstuffFrom_of_nothing (escDec_false_fesc c) _ _).trans (unstuffFrom_of_byte (escDec_true_tfesc c) _ _)
  · rw [he]
    exact unstuffFrom_of_byte (escDec_false_plain c hesc) _ _

theorem unstuffFrom_stuff (c : Params) (L acc : List Byte) : unstuffFrom c false (stuff c L) acc = .ok (acc ++ L) := by
  induction L generalizing acc with
  | nil => rw [List.append_nil]; rfl
  | cons b L ih => rw [stuff_cons, unstuffFrom_escEnc_append, ih, List.append_assoc, List.singleton_append]

/-- Settles O35: unstuffing gives the logical bytes back one by one, from an empty accumulator. -/
theorem unstuffInvertsStuff : Obligations.UnstuffInvertsStuff := by
  unfold Obligations.UnstuffInvertsStuff
  exact fun c L => unstuffFrom_stuff c L []

end Sys2Proof.Machine
end

section
/-! The Checksum Adapter (spec/41_checksum.md R122 to R125): the two host operations and the test checksum. -/

namespace Sys2Proof.Machine

/-! The host operations -/

theorem exec_ckCompute_of_live {s : State} (h : s.fault = false) (m : Bool) (P : PacketRecord) :
    exec (.ckCompute m P) s = .next (s.answer (.okByte (computeCk s.params m P))) :=
  State.ifLive_of_live h

theorem exec_ckVerify_of_live {s : State} (h : s.fault = false) (m : Bool) (P : Packet) :
    exec (.ckVerify m P) s = .next (s.answer (.okBool (verifyCk s.params m P))) :=
  State.ifLive_of_live h

/-- The covered list of mode off does not contain the address (41 R122). -/
theorem computeCk_off_addr (c : Params) (P : PacketRecord) (a : Byte) :
    computeCk c false { P with addr := a } = computeCk c false P := by
  simp only [computeCk, cov_off]

/-- Settles O55: the word is the operation's encoding, a live state is answered `computeCk`, and in mode off that does not
read the address. -/
theorem ckComputeCoversTheFields : Obligations.CkComputeCoversTheFields := by
  unfold Obligations.CkComputeCoversTheFields
  refine fun m P s => ⟨decode_encode (.ckCompute m P), fun h => exec_ckCompute_of_live h m P, fun a h => ?_⟩
  rw [exec_ckCompute_of_live h, exec_ckCompute_of_live h, computeCk_off_addr]

/-- Settles O56: the word is the operation's encoding, a live state is answered `verifyCk`, and the one checksum that
verifies is the computed one, which does not read the packet's own. -/
theorem ckVerifyComparesTheChecksum : Obligations.CkVerifyComparesTheChecksum := by
  unfold Obligations.CkVerifyComparesTheChecksum
  exact fun m P s => ⟨decode_encode (.ckVerify m P), fun h => exec_ckVerify_of_live h m P,
    computeCk s.params m P.body, fun ck' => verifyCk_iff s.params m { P with ck := ck' }⟩

/-! The test checksum -/

theorem checksum_of_xor8 {c : Params} (h : c.ck = .xor8) (m : Bool) (L : List Byte) : checksum c m L = xor8 L := by
  rw [checksum, h]

theorem xor8_cons (b : Byte) (L : List Byte) : xor8 (b :: L) = b ^^^ xor8 L := by
  rw [← List.singleton_append, xor8_append]
  simp [xor8]

/-- Changing one byte changes the test checksum, whatever stands before and after it. -/
theorem xor8_modify_ne {L : List Byte} {i : Nat} {f : Byte → Byte} (hi : i < L.length) (hf : ∀ b, f b ≠ b) :
    xor8 L ≠ xor8 (L.modify i f) := by
  induction L generalizing i with
  | nil => simp at hi
  | cons b L ih =>
    cases i with
    | zero => simpa [xor8_cons] using (hf b).symm
    | succ i => simpa [xor8_cons] using ih (by simpa using hi)

theorem xor_bit_ne {j : Nat} (hj : j < 8) (b : Byte) : b ^^^ (1#8 <<< j) ≠ b := by
  intro h
  have hbit := congrArg (·.getLsbD j) h
  simp [hj] at hbit

theorem detectsOneBit_of_xor8 {c : Params} (h : c.ck = .xor8) : DetectsOneBit c := by
  rintro m L _ ⟨i, j, hi, hj, rfl⟩
  rw [checksum_of_xor8 h, checksum_of_xor8 h]
  exact xor8_modify_ne hi (xor_bit_ne hj)

/-- Settles O57: `checksum` is `xor8` by name, and a flipped bit is a changed byte. -/
theorem xor8DetectsOneBit : Obligations.Xor8DetectsOneBit := by
  unfold Obligations.Xor8DetectsOneBit
  exact fun c h => ⟨checksum_of_xor8 h, detectsOneBit_of_xor8 h⟩

end Sys2Proof.Machine
end

section
/-! The record of a frame in progress under a whole frame's logical bytes (spec/43_incremental_decoder.md R155 to R161):
header, data, checksum. No state is named here. -/

namespace Sys2Proof.Machine

/-- The logical bytes `L` consumed one after another in mode `m`. -/
def FrameRec.consumes (T : FrameRec) (m : Bool) (L : List Byte) : FrameRec :=
  L.foldl (fun T x => T.consume m x) T

@[simp] theorem FrameRec.consumes_nil (T : FrameRec) (m : Bool) : T.consumes m [] = T := rfl

@[simp] theorem FrameRec.consumes_cons (T : FrameRec) (m : Bool) (x : Byte) (L : List Byte) :
    T.consumes m (x :: L) = (T.consume m x).consumes m L := rfl

variable {T : FrameRec} {m : Bool}

theorem FrameRec.consume_unfinished (h : T.InProgress m) (x : Byte) (hlt : T.cnt.toNat + 1 < T.exp.toNat) :
    (T.consume m x).finished = false :=
  Bool.eq_false_iff.2 fun hf => hlt.ne ((FrameRec.consume_finished h x).1 hf)

theorem FrameRec.InProgress.consume_cnt_toNat (h : T.InProgress m) (x : Byte) :
    (T.consume m x).cnt.toNat = T.cnt.toNat + 1 := by
  obtain ⟨⟨-, hlt, hle⟩, -⟩ := h
  rw [FrameRec.consume_cnt, count_toNat (by omega)]

/-- The expected total never falls while a frame is in progress: the length byte only adds to the provisional total (43 R157). -/
theorem FrameRec.InProgress.exp_le_consume (h : T.InProgress m) (x : Byte) :
    T.exp.toNat ≤ (T.consume m x).exp.toNat := by
  obtain hc | hc | hc := Nat.lt_trichotomy T.cnt.toNat (lengthPos m)
  · rw [FrameRec.consume_header h hc]
    split_ifs <;> rfl
  · obtain ⟨-, hexp, -⟩ := h
    have hx := x.isLt
    have hm := m.toNat_le
    rw [FrameRec.consume_length hc, hexp hc.le, count_toNat (by unfold headerTotal; omega)]
    omega
  · obtain he | he := Nat.lt_or_ge T.exp.toNat (T.cnt.toNat + 2)
    · rw [FrameRec.consume_checksum hc he]
    · rw [FrameRec.consume_data hc he]

/-- Data bytes, as many as leave room for the checksum, are appended in order (43 R158). -/
theorem FrameRec.consumes_data (L : List Byte) (hc : lengthPos m < T.cnt.toNat)
    (he : T.cnt.toNat + L.length < T.exp.toNat) :
    T.consumes m L = { T with data := T.data ++ L, cnt := BitVec.ofNat 9 (T.cnt.toNat + L.length) } := by
  induction L generalizing T with
  | nil => simp
  | cons x L ih =>
    have hexp := T.exp.isLt
    simp only [List.length_cons] at he ⊢
    have hcnt : (BitVec.ofNat 9 (T.cnt.toNat + 1)).toNat = T.cnt.toNat + 1 := count_toNat (by omega)
    rw [FrameRec.consumes_cons, FrameRec.consume_data hc (by omega), ih (by simp only [hcnt]; omega)
      (by simp only [hcnt]; omega)]
    simp only [hcnt, List.append_assoc, List.singleton_append, Nat.add_assoc, Nat.add_comm 1]

/-- The record of a frame of `P` once its header and the data bytes `D` are consumed: what stood in the accumulators of `T`
stays only where no byte has been placed. -/
def FrameRec.loaded (T : FrameRec) (m : Bool) (P : PacketRecord) (D : List Byte) : FrameRec :=
  { T with
    cnt := BitVec.ofNat 9 (dataPos m + D.length)
    exp := BitVec.ofNat 9 (headerTotal m + P.n.toNat)
    esc := false
    addr := if m then P.addr.truncate 7 else T.addr
    cmd := P.cmd
    len := P.n
    data := D }

/-- The header bytes fill address (mode on only), command and length, and fix the expected total (43 R155 to R157). -/
theorem FrameRec.start_consumes_header (T : FrameRec) (m : Bool) (P : PacketRecord) :
    (T.start m).consumes m (addressBytes m P ++ [P.cmd, P.n]) = T.loaded m P [] := by
  cases m <;> rfl

theorem FrameRec.loaded_cnt_toNat (T : FrameRec) (m : Bool) {P : PacketRecord} {D : List Byte}
    (hD : D.length ≤ P.n.toNat) : (T.loaded m P D).cnt.toNat = dataPos m + D.length := by
  have hn := P.n.isLt
  have hm := m.toNat_le
  exact count_toNat (by unfold dataPos; omega)

theorem FrameRec.loaded_exp_toNat (T : FrameRec) (m : Bool) (P : PacketRecord) (D : List Byte) :
    (T.loaded m P D).exp.toNat = headerTotal m + P.n.toNat := by
  have hn := P.n.isLt
  have hm := m.toNat_le
  exact count_toNat (by unfold headerTotal; omega)

theorem FrameRec.loaded_inProgress (T : FrameRec) (m : Bool) {P : PacketRecord} {D : List Byte}
    (hD : D.length ≤ P.n.toNat) : (T.loaded m P D).InProgress m := by
  have hn := P.n.isLt
  have hm := m.toNat_le
  have hlen : (T.loaded m P D).len = P.n := rfl
  have hdata : (T.loaded m P D).data = D := rfl
  simp only [FrameRec.InProgress, T.loaded_cnt_toNat m hD, T.loaded_exp_toNat, hlen, hdata, headerTotal, lengthPos, dataPos]
  refine ⟨⟨?_, ?_, ?_⟩, fun _ => ?_, fun _ => trivial, fun _ => ?_, fun _ => ?_⟩ <;> omega

theorem FrameRec.loaded_consumes_data (T : FrameRec) (m : Bool) {P : PacketRecord} {D : List Byte}
    (hD : D.length ≤ P.n.toNat) : (T.loaded m P []).consumes m D = T.loaded m P D := by
  have hcnt : (T.loaded m P []).cnt.toNat = dataPos m := T.loaded_cnt_toNat m (Nat.zero_le _)
  have hexp := T.loaded_exp_toNat m P []
  rw [FrameRec.consumes_data D (by rw [hcnt]; unfold lengthPos dataPos; omega)
    (by rw [hcnt, hexp]; unfold dataPos headerTotal; omega), hcnt]
  rfl

/-- After all its data a frame stands at its last position, the checksum's (30 R75). -/
theorem FrameRec.loaded_last_position (T : FrameRec) (m : Bool) {P : PacketRecord} (hlen : P.data.length = P.n.toNat) :
    (T.loaded m P P.data).cnt.toNat + 1 = (T.loaded m P P.data).exp.toNat := by
  rw [T.loaded_cnt_toNat m hlen.le, T.loaded_exp_toNat, hlen]
  unfold dataPos headerTotal
  omega

/-! The packet of a whole frame -/

theorem PacketRecord.wellFormed_iff {P : PacketRecord} :
    P.wellFormed m = true ↔ P.data.length = P.n.toNat ∧ (m = true → P.addr.toNat ≤ 0x7F) := by
  cases m <;> simp [PacketRecord.wellFormed]

/-- The packet a decoder exposes for a frame of `P` with the checksum byte `ck`: the address is 0 in mode off (43 R161). -/
def exposedPacket (m : Bool) (P : PacketRecord) (ck : Byte) : Packet :=
  { P.withCk ck with addr := if m then P.addr else 0 }

/-- Seven bits hold the address of a packet the encoder accepts (42 R131). -/
theorem zeroExtend_truncate_addr {a : Byte} (h : a.toNat ≤ 0x7F) : (a.truncate 7).zeroExtend 8 = a := by
  apply BitVec.eq_of_toNat_eq
  simp
  omega

/-- The checksum byte finishes the record of a packet the encoder accepts, and its packet is that packet again. -/
theorem FrameRec.loaded_consume_packet (T : FrameRec) {P : PacketRecord} (hP : P.wellFormed m = true) (ck : Byte) :
    ((T.loaded m P P.data).consume m ck).packet m = exposedPacket m P ck := by
  obtain ⟨hlen, haddr⟩ := PacketRecord.wellFormed_iff.1 hP
  have hlast := T.loaded_last_position m hlen
  obtain ⟨hlate, -⟩ := FrameRec.last_position (T.loaded_inProgress m hlen.le) hlast
  rw [FrameRec.consume_checksum hlate (by omega)]
  cases m with
  | false => rfl
  | true => exact congrArg (fun a => ({ P.withCk ck with addr := a } : Packet)) (zeroExtend_truncate_addr (haddr rfl))

/-- Verifying an exposed packet compares its checksum byte with the record's checksum: in mode off the covered list has no
address to lose (41 R122, R124). -/
theorem verifyCk_exposedPacket (c : Params) (m : Bool) (P : PacketRecord) (ck : Byte) :
    verifyCk c m (exposedPacket m P ck) = true ↔ ck = computeCk c m P := by
  rw [verifyCk_iff]
  cases m with
  | false => exact Eq.congr_right (computeCk_off_addr c P 0)
  | true => rfl

end Sys2Proof.Machine
end

section
/-! FEED of a whole frame: the wire bytes of any logical bytes while Receiving, and the frame of a record with any checksum
byte from an Idle decoder (spec/43_incremental_decoder.md R150 to R161). -/

namespace Sys2Proof.Machine

/-- What an Idle state `s` has become inside a frame: the frame's record is `T`, and `k` FEEDs have answered `Incomplete`. -/
def State.midFrame (s : State) (T : FrameRec) (k : Nat) : State :=
  { s with
    decActive := true
    decFmode := s.mode
    dec := T
    fedYet := true
    results := s.results ++ List.replicate k .incomplete }

variable {s : State} {T : FrameRec} {k : Nat}

theorem State.midFrame_feedReady (hs : s.FeedReady) : (s.midFrame T k).FeedReady := hs

theorem State.midFrame_answer_incomplete : (s.midFrame T k).answer .incomplete = s.midFrame T (k + 1) := by
  simp [State.answer, State.midFrame, List.replicate_succ']

/-- The marker takes an Idle decoder into a frame of the current mode (43 R152). -/
theorem State.feedByte_fend (ha : s.decActive = false) :
    s.feedByte s.params.fend = s.midFrame (s.dec.start s.mode) 1 := by
  rw [State.feedByte_idle _ ha, State.feedIdle, if_pos rfl]
  rfl

theorem State.midFrame_feedByte_fesc (he : T.esc = false) :
    (s.midFrame T k).feedByte s.params.fesc = s.midFrame { T with esc := true } (k + 1) := by
  have hesc : escDec s.params T.esc s.params.fesc = (true, .nothing) := by rw [he, escDec_false_fesc]
  rw [State.feedByte_active _ rfl, State.feedReceiving_of_nothing hesc, ← State.midFrame_answer_incomplete]
  rfl

theorem State.midFrame_feedByte_of_byte {b x : Byte} (h : escDec s.params T.esc b = (false, .byte x)) :
    (s.midFrame T k).feedByte b = (s.midFrame { T with esc := false } k).feedLogical x := by
  rw [State.feedByte_active _ rfl, State.feedReceiving_of_byte h]
  rfl

theorem runOps_feeds_cons {b : Byte} (hs : s.FeedReady) (W : List Byte) :
    runOps (feeds (b :: W)) s = runOps (feeds W) (s.feedByte b) := by
  rw [feeds, List.map_cons, runOps, exec_feed_of_ready b hs]
  rfl

/-- The wire bytes of a logical byte act as that byte, after an `Incomplete` for the escape marker if there is one. -/
theorem State.midFrame_feeds_escEnc (hs : s.FeedReady) (he : T.esc = false) (x : Byte) :
    runOps (feeds (escEnc s.params x)) (s.midFrame T k) =
      .next ((s.midFrame T (k + (wireWidth s.params x - 1))).feedLogical x) := by
  have hclear : { T with esc := false } = T := by rw [← he]
  have hpair : ∀ b y, escDec s.params true b = (false, .byte y) →
      runOps (feeds [s.params.fesc, b]) (s.midFrame T k) = .next ((s.midFrame T (k + 1)).feedLogical y) := by
    intro b y hb
    rw [runOps_feeds_cons (State.midFrame_feedReady hs), State.midFrame_feedByte_fesc he,
      runOps_feeds_cons (State.midFrame_feedReady hs), State.midFrame_feedByte_of_byte hb, hclear]
    rfl
  rw [← escEnc_length]
  obtain ⟨rfl, hw⟩ | ⟨rfl, hw⟩ | ⟨-, hesc, hw⟩ := escEnc_cases s.params x <;> rw [hw]
  · exact hpair _ _ (escDec_true_tfend s.params)
  · exact hpair _ _ (escDec_true_tfesc s.params)
  · have hx : escDec s.params T.esc x = (false, .byte x) := by rw [he, escDec_false_plain s.params hesc]
    rw [runOps_feeds_cons (State.midFrame_feedReady hs), State.midFrame_feedByte_of_byte hx, hclear]
    rfl

/-- Logical bytes that end before the frame's last position are consumed, each of their wire bytes answered `Incomplete`. -/
theorem State.midFrame_feeds_stuff (hs : s.FeedReady) (hT : T.InProgress s.mode) (he : T.esc = false) (L : List Byte)
    (hlt : T.cnt.toNat + L.length < T.exp.toNat) :
    runOps (feeds (stuff s.params L)) (s.midFrame T k) =
      .next (s.midFrame (T.consumes s.mode L) (k + (stuff s.params L).length)) := by
  induction L generalizing T k with
  | nil => rfl
  | cons x L ih =>
    rw [List.length_cons] at hlt
    have hx : T.cnt.toNat + 1 < T.exp.toNat := by omega
    have hfed : (s.midFrame T (k + (wireWidth s.params x - 1))).feedLogical x =
        s.midFrame (T.consume s.mode x) (k + wireWidth s.params x) := by
      obtain ⟨hf, -⟩ | ⟨-, e⟩ := State.feedLogical_eq (s.midFrame T (k + (wireWidth s.params x - 1))) x
      · exact absurd hf (Bool.eq_false_iff.1 (FrameRec.consume_unfinished hT x hx))
      · have hpos := (wireWidth_bounds s.params x).1
        have hw : k + (wireWidth s.params x - 1) + 1 = k + wireWidth s.params x := by omega
        rw [e, ← hw, ← State.midFrame_answer_incomplete]
        rfl
    have hcnt := hT.consume_cnt_toNat x
    have hexp := hT.exp_le_consume x
    rw [stuff_cons, feeds_append, runOps_append_of_next (State.midFrame_feeds_escEnc hs he x), hfed,
      ih (FrameRec.consume_inProgress hT x hx.ne) (by rw [FrameRec.consume_esc, he]) (by omega),
      List.length_append, escEnc_length, FrameRec.consumes_cons, Nat.add_assoc]

/-- The logical byte at the last position completes the frame. -/
theorem State.midFrame_feeds_last (hs : s.FeedReady) (hT : T.InProgress s.mode) (he : T.esc = false) (x : Byte)
    (hlast : T.cnt.toNat + 1 = T.exp.toNat) :
    runOps (feeds (escEnc s.params x)) (s.midFrame T k) =
      .next (s.midFrame (T.consume s.mode x) (k + (wireWidth s.params x - 1))).completeFrame := by
  rw [State.midFrame_feeds_escEnc hs he]
  obtain ⟨-, e⟩ | ⟨hf, -⟩ := State.feedLogical_eq (s.midFrame T (k + (wireWidth s.params x - 1))) x
  · rw [e]
    rfl
  · exact absurd ((FrameRec.consume_finished hT x).2 hlast) (Bool.eq_false_iff.1 hf)

/-- The header of a frame, address (mode on only), command and length, after its marker. -/
theorem State.midFrame_feeds_header (hs : s.FeedReady) (P : PacketRecord) :
    runOps (feeds (stuff s.params (addressBytes s.mode P ++ [P.cmd, P.n]))) (s.midFrame (T.start s.mode) k) =
      .next (s.midFrame (T.loaded s.mode P [])
        (k + (stuff s.params (addressBytes s.mode P ++ [P.cmd, P.n])).length)) := by
  have hm := s.mode.toNat_le
  have hexp : (T.start s.mode).exp.toNat = headerTotal s.mode := count_toNat (by unfold headerTotal; omega)
  have hcnt : (T.start s.mode).cnt.toNat = 1 := rfl
  have hlt : (T.start s.mode).cnt.toNat + (addressBytes s.mode P ++ [P.cmd, P.n]).length < (T.start s.mode).exp.toNat := by
    rw [hcnt, hexp, List.length_append, addressBytes_length, headerTotal]
    simp only [List.length_cons, List.length_nil]
    omega
  rw [State.midFrame_feeds_stuff hs (T.start_inProgress s.mode) rfl _ hlt, FrameRec.start_consumes_header]

/-- The data of a frame, after its header. -/
theorem State.midFrame_feeds_data (hs : s.FeedReady) {P : PacketRecord} (hlen : P.data.length = P.n.toNat) :
    runOps (feeds (stuff s.params P.data)) (s.midFrame (T.loaded s.mode P []) k) =
      .next (s.midFrame (T.loaded s.mode P P.data) (k + (stuff s.params P.data).length)) := by
  have hnil : ([] : List Byte).length ≤ P.n.toNat := Nat.zero_le _
  have hlt : (T.loaded s.mode P []).cnt.toNat + P.data.length < (T.loaded s.mode P []).exp.toNat := by
    rw [T.loaded_cnt_toNat s.mode hnil, T.loaded_exp_toNat, hlen, List.length_nil]
    unfold dataPos headerTotal
    omega
  rw [State.midFrame_feeds_stuff hs (T.loaded_inProgress s.mode hnil) rfl _ hlt, T.loaded_consumes_data s.mode hlen.le]

/-- The frame's parts as they are fed: marker, header, data, checksum. -/
theorem frameWithCk_eq (c : Params) (m : Bool) (P : PacketRecord) (ck : Byte) :
    frameWithCk c m P ck =
      c.fend :: (stuff c (addressBytes m P ++ [P.cmd, P.n]) ++ (stuff c P.data ++ escEnc c ck)) := by
  simp only [frameWithCk, stuff_append, stuff_cons, stuff_nil, List.append_nil, List.append_assoc, List.singleton_append]

/-- The frame of a record whose length field agrees with its data, with any checksum byte, fed to an Idle decoder: every
byte but the last answers `Incomplete`, and the last completes the frame. -/
theorem runOps_feeds_frameWithCk (hs : s.FeedReady) (ha : s.decActive = false) {P : PacketRecord}
    (hlen : P.data.length = P.n.toNat) (ck : Byte) :
    runOps (feeds (frameWithCk s.params s.mode P ck)) s =
      .next (s.midFrame ((s.dec.loaded s.mode P P.data).consume s.mode ck)
        ((frameWithCk s.params s.mode P ck).length - 1)).completeFrame := by
  have hcount : (frameWithCk s.params s.mode P ck).length - 1 =
      1 + (stuff s.params (addressBytes s.mode P ++ [P.cmd, P.n])).length + (stuff s.params P.data).length +
        (wireWidth s.params ck - 1) := by
    have hw := wireWidth_bounds s.params ck
    simp only [frameWithCk_eq, List.length_cons, List.length_append, escEnc_length]
    omega
  rw [hcount, frameWithCk_eq, runOps_feeds_cons hs, State.feedByte_fend ha, feeds_append,
    runOps_append_of_next (State.midFrame_feeds_header hs P), feeds_append,
    runOps_append_of_next (State.midFrame_feeds_data hs hlen),
    State.midFrame_feeds_last hs (s.dec.loaded_inProgress s.mode hlen.le) rfl ck (s.dec.loaded_last_position s.mode hlen)]

theorem State.midFrame_completeFrame_results :
    (s.midFrame T k).completeFrame.results = s.results ++ List.replicate k .incomplete ++
      [if verifyCk s.params s.mode (T.packet s.mode) then .complete (T.packet s.mode) else .error .checksumMismatch] := rfl

/-- The frame of a packet the encoder accepts, with another checksum byte than its own, is answered `ChecksumMismatch` at its
last byte (43 R160). -/
theorem runOps_feeds_frameWithCk_mismatch (hs : s.FeedReady) (ha : s.decActive = false) {P : PacketRecord}
    (hP : P.wellFormed s.mode = true) {ck : Byte} (hck : ck ≠ computeCk s.params s.mode P) :
    ∃ t, runOps (feeds (frameWithCk s.params s.mode P ck)) s = .next t ∧ t.decActive = false ∧
      t.results = s.results ++ List.replicate ((frameWithCk s.params s.mode P ck).length - 1) .incomplete ++
        [.error .checksumMismatch] := by
  obtain ⟨hlen, -⟩ := PacketRecord.wellFormed_iff.1 hP
  refine ⟨_, runOps_feeds_frameWithCk hs ha hlen ck, State.completeFrame_decActive _, ?_⟩
  rw [State.midFrame_completeFrame_results, FrameRec.loaded_consume_packet s.dec hP,
    if_neg (mt (verifyCk_exposedPacket s.params s.mode P ck).1 hck)]

/-- Settles O37: the frame is one of the second packet with a checksum byte that, by the premise, is not its own. -/
theorem singleBitDamageIsDetected : Obligations.SingleBitDamageIsDetected := by
  unfold Obligations.SingleBitDamageIsDetected
  intro P P' s hdetects hs ha _ hP' _ hdiffer
  exact runOps_feeds_frameWithCk_mismatch hs ha hP' (hdetects s.mode _ _ hdiffer)

end Sys2Proof.Machine
end

section
/-! The Frame Encoder (spec/42_encoder.md R130 to R135): what ENCODE rejects, what it writes, what it leaves alone, and its
frame fed back to an Idle decoder. -/

namespace Sys2Proof.Machine

variable {s : State} {P : PacketRecord}

theorem exec_encode_of_live (h : s.fault = false) (P : PacketRecord) : exec (.encode P) s = .next (s.encodePacket P) :=
  execEncode_eq_next.2 ⟨h, rfl⟩

/-! The rejected packets -/

theorem encodeError_of_length_ne {m : Bool} (h : P.data.length ≠ P.n.toNat) : encodeError m P = some .invalidLength :=
  if_pos h

theorem encodeError_of_addr_gt (hlen : P.data.length = P.n.toNat) (haddr : P.addr.toNat > 0x7F) :
    encodeError true P = some .invalidAddress := by
  simp [encodeError, hlen, haddr]

theorem State.encodePacket_of_error {kind : ErrorKind} (h : encodeError s.mode P = some kind) :
    s.encodePacket P = s.answer (.error kind) := by
  rw [State.encodePacket, h]

/-- Settles O28: `encodeError` asks for the length before the address, and an error is only answered. -/
theorem encodeRejectsBadPackets : Obligations.EncodeRejectsBadPackets := by
  unfold Obligations.EncodeRejectsBadPackets
  intro P s hs
  rw [exec_encode_of_live hs]
  refine ⟨fun hlen => ?_, fun hlen hmode haddr => ?_⟩
  · rw [State.encodePacket_of_error (encodeError_of_length_ne hlen)]
    rfl
  · rw [State.encodePacket_of_error (hmode ▸ encodeError_of_addr_gt hlen haddr)]
    rfl

/-! The frame on TX -/

theorem State.encodePacket_of_wellFormed (h : P.wellFormed s.mode = true) :
    s.encodePacket P = s.transmit (wireFrame s.params s.mode P) := by
  rw [State.encodePacket, encodeError_eq_none.2 h]

/-- One write, with the transport's answer known (20 R52): what it lets through is on TX, and its result is ENCODE's. -/
theorem State.transmit_of_txAnswer {a : TxAnswer} {x : TxStream} (h : txAnswer s.tx = (a, x)) (frame : List Byte) :
    s.transmit frame = { s with
      tx := { x with log := s.tx.log ++ sentBytes a frame }
      results := s.results ++ [writeResult a] } := by
  rw [State.transmit_eq, txWrite_eq, h]
  rfl

/-- ENCODE of a packet it accepts, by the transport's answer (42 R130, R133). -/
theorem exec_encode_of_txAnswer (hs : s.fault = false) (hP : P.wellFormed s.mode = true) {a : TxAnswer} {x : TxStream}
    (h : txAnswer s.tx = (a, x)) :
    exec (.encode P) s = .next { s with
      tx := { x with log := s.tx.log ++ sentBytes a (wireFrame s.params s.mode P) }
      results := s.results ++ [writeResult a] } := by
  rw [exec_encode_of_live hs, State.encodePacket_of_wellFormed hP, State.transmit_of_txAnswer h]

/-- The wire frame is the marker and the stuffed covered list with its checksum (30 R78, 41 R121). -/
theorem wireFrame_eq_stuff_cov (c : Params) (m : Bool) (P : PacketRecord) :
    wireFrame c m P = [c.fend] ++ stuff c (cov m P ++ [checksum c m (cov m P)]) := rfl

/-- Settles O29: the transport's `ok` lets the whole wire frame through, which is spelled by the covered list. -/
theorem encodeWritesTheFrame : Obligations.EncodeWritesTheFrame := by
  unfold Obligations.EncodeWritesTheFrame
  intro P s x covered hs hlen haddr hx hcovered
  obtain rfl : covered = cov s.mode P := hcovered
  rw [exec_encode_of_txAnswer hs (PacketRecord.wellFormed_iff.2 ⟨hlen, haddr⟩) hx, wireFrame_eq_stuff_cov,
    List.append_assoc]
  rfl

/-- Settles O30: the transport's `err` lets as many bytes of the wire frame through as it draws. -/
theorem encodeWriteFailure : Obligations.EncodeWriteFailure := by
  unfold Obligations.EncodeWriteFailure
  exact fun P s x sent hs hP hx => exec_encode_of_txAnswer hs hP hx

/-! What ENCODE leaves alone -/

theorem State.encodePacket_frame (s : State) (P : PacketRecord) :
    s.encodePacket P = { s with tx := (s.encodePacket P).tx, results := (s.encodePacket P).results } := by
  obtain ⟨-, e⟩ | ⟨-, -, -, e⟩ | ⟨-, e⟩ := s.encodePacket_cases P <;> rw [e]
  · rfl
  · rfl
  · rw [State.transmit_eq]
    rfl

/-- Settles O31: ENCODE writes TX and the results only, and commutes with any change of the decoder's elements. -/
theorem encodeLeavesTheDecoder : Obligations.EncodeLeavesTheDecoder := by
  unfold Obligations.EncodeLeavesTheDecoder
  intro P s t hexec
  obtain ⟨hs, rfl⟩ := execEncode_eq_next.1 hexec
  refine ⟨s.encodePacket_frame P, fun a f d => ?_⟩
  rw [exec_encode_of_live (by exact hs)]
  exact congrArg _ (leavesDecoder_encodePacket P s a f d)

/-! The frame fed back -/

/-- The encoder's frame is the frame of the record with the record's own checksum. -/
theorem wireFrame_eq_frameWithCk (c : Params) (m : Bool) (P : PacketRecord) :
    wireFrame c m P = frameWithCk c m P (computeCk c m P) := rfl

/-- The encoder's frame fed to an Idle decoder: TX is not touched, every byte but the last answers `Incomplete`, and the last
one `Complete` of the packet, with its address 0 in mode off (43 R160, R161). -/
theorem runOps_feeds_wireFrame (hs : s.FeedReady) (ha : s.decActive = false) (hP : P.wellFormed s.mode = true) :
    ∃ t, runOps (feeds (wireFrame s.params s.mode P)) s = .next t ∧ t.tx = s.tx ∧
      t.results = s.results ++ List.replicate ((wireFrame s.params s.mode P).length - 1) .incomplete ++
        [.complete (exposedPacket s.mode P (computeCk s.params s.mode P))] := by
  obtain ⟨hlen, -⟩ := PacketRecord.wellFormed_iff.1 hP
  rw [wireFrame_eq_frameWithCk]
  refine ⟨_, runOps_feeds_frameWithCk hs ha hlen _, rfl, ?_⟩
  rw [State.midFrame_completeFrame_results, FrameRec.loaded_consume_packet s.dec hP,
    if_pos ((verifyCk_exposedPacket s.params s.mode P _).2 rfl)]

/-- Settles O36: ENCODE leaves the decoder Idle and ready, so its frame is fed as to the state before it. -/
theorem encodeThenFeedRoundTrip : Obligations.EncodeThenFeedRoundTrip := by
  unfold Obligations.EncodeThenFeedRoundTrip
  rintro P s x frame hs ha hlen haddr hx rfl
  have hP : P.wellFormed s.mode = true := PacketRecord.wellFormed_iff.2 ⟨hlen, haddr⟩
  have hexec := exec_encode_of_txAnswer hs.1 hP hx
  obtain ⟨t, hrun, htx, hresults⟩ := runOps_feeds_wireFrame (s := { s with
    tx := { x with log := s.tx.log ++ wireFrame s.params s.mode P }
    results := s.results ++ [.ok] }) hs ha hP
  refine ⟨t, ?_, congrArg TxStream.log htx, hresults⟩
  rw [runOps, hexec]
  exact hrun

end Sys2Proof.Machine
end

section
/-! FEED and DEC_RESET (spec/43_incremental_decoder.md R150 to R163, R170): the gate, the Idle decoder, the escape step, the
logical byte by its position in the frame, and what a FEED leaves alone. -/

namespace Sys2Proof.Machine

variable {s : State} {b x : Byte} {p' : Bool}

/-! The gate -/

/-- Settles O8: every operation stands behind the `FAULT` gate, and so does the step. -/
theorem faultBlocksEveryOperation : Obligations.FaultBlocksEveryOperation := by
  unfold Obligations.FaultBlocksEveryOperation
  exact fun s hf => ⟨fun b => exec_of_fault hf (.feed b), exec_of_fault hf, State.ifLive_of_fault hf⟩

/-- Settles O24: behind the gate DEC_RESET abandons the frame and answers `Ok`. -/
theorem decResetAbandonsTheFrame : Obligations.DecResetAbandonsTheFrame := by
  unfold Obligations.DecResetAbandonsTheFrame
  exact ⟨decode_of_selects (r := { word := 0x6000 }) (op := .decReset) (by decide),
    fun s hf => exec_of_fault hf .decReset, fun s hf => State.ifLive_of_live hf⟩

/-! The Idle decoder -/

theorem State.feedIdle_of_fend (h : b = s.params.fend) : s.feedIdle b = s.startFrame.answer .incomplete := if_pos h

theorem State.feedIdle_of_ne_fend (h : b ≠ s.params.fend) : s.feedIdle b = s.answer (.error .notStartByte) := if_neg h

/-- The provisional total as a counter (43 R152). -/
theorem headerTotal_count (m : Bool) : BitVec.ofNat 9 (headerTotal m) = if m then 5 else 4 := by
  cases m <;> rfl

/-- Settles O9: the two arms of FEED while Idle, with the frame-start values of the current mode. -/
theorem feedWhileIdle : Obligations.FeedWhileIdle := by
  unfold Obligations.FeedWhileIdle
  intro b s hs ha
  rw [exec_feed_of_ready b hs, State.feedByte_idle b ha]
  refine ⟨fun hb => ?_, fun hb => ?_⟩
  · rw [State.feedIdle_of_fend (s := { s with fedYet := true }) hb, ← headerTotal_count]
    rfl
  · rw [State.feedIdle_of_ne_fend (s := { s with fedYet := true }) hb]
    rfl

/-! The escape step -/

/-- A logical byte leaves no escape pending (40 R102). -/
theorem escDec_byte_pending {c : Params} {p : Bool} (h : escDec c p b = (p', .byte x)) : p' = false := by
  obtain ⟨-, -, e⟩ | ⟨y, e⟩ | ⟨-, -, -, e⟩ := escDec_cases c p b <;> rw [e] at h
  · simp at h
  · exact (congrArg Prod.fst h).symm
  · simp at h

theorem exec_feed_of_nothing (hs : s.FeedReady) (ha : s.decActive = true)
    (h : escDec s.params s.dec.esc b = (p', .nothing)) :
    exec (.feed b) s = .next { s with
      fedYet := true
      dec := { s.dec with esc := p' }
      results := s.results ++ [.incomplete] } := by
  rw [exec_feed_of_ready b hs, State.feedByte_active b ha,
    State.feedReceiving_of_nothing (s := { s with fedYet := true }) h]
  rfl

theorem exec_feed_of_byte (hs : s.FeedReady) (ha : s.decActive = true)
    (h : escDec s.params s.dec.esc b = (p', .byte x)) :
    exec (.feed b) s =
      .next (({ s with fedYet := true, dec := { s.dec with esc := p' } } : State).feedLogical x) := by
  rw [exec_feed_of_ready b hs, State.feedByte_active b ha,
    State.feedReceiving_of_byte (s := { s with fedYet := true }) h]

/-- Settles O10: a logical byte leaves the pending escape clear and never faults. -/
theorem feedEscapeStep : Obligations.FeedEscapeStep := by
  unfold Obligations.FeedEscapeStep
  intro b s p' hs ha
  refine ⟨exec_feed_of_nothing hs ha, fun x h => ⟨_, exec_feed_of_byte hs ha h, ?_, ?_⟩⟩
  · obtain rfl := escDec_byte_pending h
    exact State.feedLogical_esc rfl x
  · rw [State.feedLogical_fault]
    exact hs.1

/-- Settles O11: the escape step has no arm for such an operand but `bad`. -/
theorem feedBadEscapeFaults : Obligations.FeedBadEscapeFaults := by
  unfold Obligations.FeedBadEscapeFaults
  intro b s hs ha hp hb hb'
  have hbad : escDec s.params s.dec.esc b = (false, .bad) := by rw [hp, escDec_true_bad s.params hb hb']
  rw [exec_feed_of_ready b hs, State.feedByte_active b ha,
    State.feedReceiving_of_bad (s := { s with fedYet := true }) hbad]
  rfl

/-! The logical byte -/

theorem State.feedLogical_of_finished (h : (s.dec.consume s.decFmode x).finished = true) :
    s.feedLogical x = ({ s with dec := s.dec.consume s.decFmode x } : State).completeFrame := if_pos h

theorem State.feedLogical_of_not_finished (h : (s.dec.consume s.decFmode x).finished = false) :
    s.feedLogical x = ({ s with dec := s.dec.consume s.decFmode x } : State).answer .incomplete :=
  if_neg (Bool.eq_false_iff.1 h)

/-- A logical byte before the last position is consumed and answered `Incomplete`. -/
theorem exec_feed_of_byte_before_last (hs : s.FeedReady) (ha : s.decActive = true) (hinv : s.DecInv)
    (h : escDec s.params s.dec.esc b = (p', .byte x)) (hlt : s.dec.cnt.toNat + 1 < s.dec.exp.toNat) :
    exec (.feed b) s = .next { s with
      fedYet := true
      dec := ({ s.dec with esc := p' } : FrameRec).consume s.decFmode x
      results := s.results ++ [.incomplete] } := by
  have hf := FrameRec.consume_unfinished (FrameRec.inProgress_esc (hinv.2 ha) p') x hlt
  rw [exec_feed_of_byte hs ha h, State.feedLogical_of_not_finished hf]
  rfl

/-- The logical byte at the last position is the checksum and completes the frame. -/
theorem exec_feed_of_byte_last (hs : s.FeedReady) (ha : s.decActive = true) (hinv : s.DecInv)
    (h : escDec s.params s.dec.esc b = (p', .byte x)) (hlast : s.dec.cnt.toNat + 1 = s.dec.exp.toNat) :
    exec (.feed b) s = .next ({ s with
      fedYet := true
      dec := { s.dec with esc := p', ck := x, cnt := BitVec.ofNat 9 (s.dec.cnt.toNat + 1) } } : State).completeFrame := by
  have hp := FrameRec.inProgress_esc (hinv.2 ha) p'
  obtain ⟨hc, -⟩ := FrameRec.last_position hp hlast
  rw [exec_feed_of_byte hs ha h, State.feedLogical_of_finished ((FrameRec.consume_finished hp x).2 hlast),
    FrameRec.consume_checksum hc (Nat.lt_succ_of_le hlast.ge)]

/-- Up to the length byte a frame in progress is before its last position: the provisional total counts the checksum. -/
theorem FrameRec.InProgress.header_before_last {T : FrameRec} {m : Bool} (h : T.InProgress m)
    (hc : T.cnt.toNat ≤ lengthPos m) : T.cnt.toNat + 1 < T.exp.toNat := by
  obtain ⟨-, hexp, -⟩ := h
  rw [hexp hc]
  unfold headerTotal lengthPos at *
  omega

/-- Settles O12: `FEND` is not the escape marker, so it is a logical byte like any other. -/
theorem startMarkerInsideFrameIsData : Obligations.StartMarkerInsideFrameIsData := by
  unfold Obligations.StartMarkerInsideFrameIsData
  intro s hs ha hinv hp
  have hbyte : escDec s.params s.dec.esc s.params.fend = (s.dec.esc, .byte s.params.fend) := by
    rw [hp, escDec_false_plain s.params s.params.fesc_ne_fend.symm]
  have hT : s.dec.InProgress s.decFmode := hinv.2 ha
  refine ⟨exec_feed_of_byte hs ha hbyte, Classical.or_iff_not_imp_left.2 fun hne => ?_⟩
  have hlt : s.dec.cnt.toNat + 1 < s.dec.exp.toNat := by
    obtain ⟨⟨-, h, -⟩, -⟩ := hT
    omega
  exact ⟨_, exec_feed_of_byte_before_last hs ha hinv hbyte hlt, ha, rfl, hT.consume_cnt_toNat _, rfl⟩

/-- At position 1 of mode on the byte is the address (43 R156). -/
theorem FrameRec.consume_address {T : FrameRec} (hc : T.cnt.toNat = 1) (x : Byte) :
    T.consume true x = { T with addr := x.truncate 7, cnt := 2 } := by
  simp only [FrameRec.consume, hc, FrameRec.place_addr]
  rfl

/-- At the next position, position 1 of mode off, the byte is the command (43 R156). -/
theorem FrameRec.consume_command {T : FrameRec} {m : Bool} (hc : T.cnt.toNat = 1 + m.toNat) (x : Byte) :
    T.consume m x = { T with cmd := x, cnt := BitVec.ofNat 9 (1 + m.toNat + 1) } := by
  simp only [FrameRec.consume, hc, FrameRec.place_cmd]

/-- Settles O13: these positions come before the length byte, so before the last, and hold the address and the command. -/
theorem feedAddressAndCommand : Obligations.FeedAddressAndCommand := by
  unfold Obligations.FeedAddressAndCommand
  intro b x p' s hs ha hinv h
  have hheader (hc : s.dec.cnt.toNat ≤ lengthPos s.decFmode) :=
    exec_feed_of_byte_before_last hs ha hinv h ((hinv.2 ha).header_before_last hc)
  have hcommand (hc : s.dec.cnt.toNat = 1 + s.decFmode.toNat) :=
    (hheader (by unfold lengthPos; omega)).trans
      (by rw [FrameRec.consume_command (T := { s.dec with esc := p' }) hc])
  refine ⟨fun hm hcnt => ?_, fun hm hcnt => ?_, fun hm hcnt => ?_⟩
  · rw [hheader (by simp [hm, hcnt, lengthPos]), hm, FrameRec.consume_address (by simp [hcnt])]
  · rw [hcommand (by simp [hm, hcnt]), hm]
    rfl
  · rw [hcommand (by simp [hm, hcnt]), hm]
    rfl

/-- Past the length byte a logical byte is data or the checksum, and neither moves the expected total (43 R157). -/
theorem FrameRec.consume_exp_of_late {T : FrameRec} {m : Bool} (hc : lengthPos m < T.cnt.toNat) (x : Byte) :
    (T.consume m x).exp = T.exp := by
  obtain he | he := Nat.lt_or_ge T.exp.toNat (T.cnt.toNat + 2)
  · rw [FrameRec.consume_checksum hc he]
  · rw [FrameRec.consume_data hc he]

/-- Everything a FEED can do while Receiving: await an escape operand, consume a logical byte that leaves the frame in progress
or completes it, or enter the faulted state. -/
theorem State.feedByte_receiving_cases (ha : s.decActive = true) (b : Byte) :
    s.feedByte b = ({ s with fedYet := true, dec := { s.dec with esc := true } } : State).answer .incomplete ∨
    (∃ y, s.feedByte b = ({ s with
      fedYet := true, dec := ({ s.dec with esc := false } : FrameRec).consume s.decFmode y } : State).answer .incomplete) ∨
    (∃ y, s.feedByte b = ({ s with
      fedYet := true, dec := ({ s.dec with esc := false } : FrameRec).consume s.decFmode y } : State).completeFrame) ∨
    s.feedByte b = { s with fedYet := true, fault := true } := by
  obtain ⟨ha', -⟩ | ⟨ha', -⟩ | ⟨-, -, -, e⟩ | ⟨-, y, -, e⟩ | ⟨-, -, -, -, e⟩ := s.feedByte_cases b
  · simp [ha] at ha'
  · simp [ha] at ha'
  · exact .inl e
  · obtain ⟨-, e'⟩ | ⟨-, e'⟩ := State.feedLogical_eq { s with fedYet := true, dec := { s.dec with esc := false } } y
    · exact .inr (.inr (.inl ⟨y, e.trans e'⟩))
    · exact .inr (.inl ⟨y, e.trans e'⟩)
  · exact .inr (.inr (.inr e))

/-- Past the length byte a FEED that stays Receiving keeps the expected total. -/
theorem State.feedByte_exp_of_late (ha : s.decActive = true) (hc : lengthPos s.decFmode < s.dec.cnt.toNat)
    (ht : (s.feedByte b).decActive = true) : (s.feedByte b).dec.exp = s.dec.exp := by
  obtain e | ⟨y, e⟩ | ⟨y, e⟩ | e := State.feedByte_receiving_cases ha b <;> rw [e] at ht ⊢
  · rfl
  · exact FrameRec.consume_exp_of_late (T := { s.dec with esc := false }) hc y
  · simp at ht

theorem lengthPos_eq_ite (m : Bool) : lengthPos m = if m then 3 else 2 := by cases m <;> rfl

theorem headerTotal_eq_ite (m : Bool) : headerTotal m = if m then 5 else 4 := by cases m <;> rfl

/-- Settles O14: the length byte fixes the expected total, later bytes keep it, and a length of 0 leaves one position. -/
theorem feedLengthByte : Obligations.FeedLengthByte := by
  unfold Obligations.FeedLengthByte
  refine ⟨fun b x p' s hs ha hinv h hc => ?_, fun b s t ha hinv hc hexec ht => ?_, fun s ha hinv hlen hc => ?_⟩
  · rw [← lengthPos_eq_ite] at hc
    rw [exec_feed_of_byte_before_last hs ha hinv h ((hinv.2 ha).header_before_last hc.le),
      FrameRec.consume_length (T := { s.dec with esc := p' }) hc, headerTotal_eq_ite]
  · obtain ⟨-, -, rfl⟩ := execFeed_eq_next.1 hexec
    exact State.feedByte_exp_of_late ha (by rwa [lengthPos_eq_ite]) ht
  · obtain ⟨-, -, hexp, -⟩ := hinv.2 ha
    have hzero : s.dec.len.toNat = 0 := by rw [hlen]; rfl
    rw [hexp (by omega), hzero, hc]
    unfold headerTotal lengthPos
    omega

/-- Settles O15: at these positions the dispatch appends, and the invariants count the data so far. -/
theorem feedDataByte : Obligations.FeedDataByte := by
  unfold Obligations.FeedDataByte
  intro b x p' s hs ha hinv h hlo hhi
  obtain ⟨⟨-, hlt, -⟩, -, hexp, hdata, -⟩ := hinv.2 ha
  have hc : lengthPos s.decFmode < s.dec.cnt.toNat := by
    unfold lengthPos dataPos at *
    omega
  refine ⟨?_, ?_⟩
  · rw [hdata hc]
    have := hexp hc
    unfold headerTotal lengthPos dataPos at *
    omega
  · rw [exec_feed_of_byte_before_last hs ha hinv h (by omega),
      FrameRec.consume_data (T := { s.dec with esc := p' }) hc (by simp only; omega)]

/-- Settles O16: at the last position the data is complete, and the byte is the checksum that `COMPLETE()` verifies. -/
theorem feedChecksumByteCompletes : Obligations.FeedChecksumByteCompletes := by
  unfold Obligations.FeedChecksumByteCompletes
  rintro b x p' s P hs ha hinv h hc rfl
  have hT : s.dec.InProgress s.decFmode := hinv.2 ha
  have hlast : s.dec.cnt.toNat + 1 = s.dec.exp.toNat := by
    obtain ⟨⟨-, hlt, -⟩, -⟩ := hT
    omega
  refine ⟨(FrameRec.last_position hT hlast).2, ?_⟩
  rw [exec_feed_of_byte_last hs ha hinv h hlast, State.completeFrame]
  simp only [verifyCk_iff]
  rfl

/-! What a FEED leaves alone -/

section Frame
variable (s : State) (b : Byte)
@[simp] theorem State.feedByte_params : (s.feedByte b).params = s.params := by rw [State.feedByte_frame]
@[simp] theorem State.feedByte_mode : (s.feedByte b).mode = s.mode := by rw [State.feedByte_frame]
@[simp] theorem State.feedByte_rx : (s.feedByte b).rx = s.rx := by rw [State.feedByte_frame]
@[simp] theorem State.feedByte_tx : (s.feedByte b).tx = s.tx := by rw [State.feedByte_frame]
@[simp] theorem State.feedByte_pending : (s.feedByte b).pending = s.pending := by rw [State.feedByte_frame]
@[simp] theorem State.feedByte_receivedYet : (s.feedByte b).receivedYet = s.receivedYet := by rw [State.feedByte_frame]
end Frame

/-- A FEED while Receiving keeps the frame's mode (45 R211). -/
theorem State.feedByte_decFmode (ha : s.decActive = true) (b : Byte) : (s.feedByte b).decFmode = s.decFmode := by
  obtain e | ⟨y, e⟩ | ⟨y, e⟩ | e := State.feedByte_receiving_cases ha b <;> rw [e] <;> rfl

theorem State.feedLogical_answers (s : State) (x : Byte) : ∃ r, (s.feedLogical x).results = s.results ++ [r] := by
  obtain ⟨-, e⟩ | ⟨-, e⟩ := s.feedLogical_eq x <;> rw [e] <;> exact ⟨_, rfl⟩

/-- A FEED of a live machine answers one result, or only enters the faulted state. -/
theorem State.feedByte_answers (hs : s.fault = false) (b : Byte) :
    ((s.feedByte b).fault = false ∧ ∃ r, (s.feedByte b).results = s.results ++ [r]) ∨
      s.feedByte b = { s with fedYet := true, fault := true } := by
  obtain ⟨-, -, e⟩ | ⟨-, -, e⟩ | ⟨-, -, -, e⟩ | ⟨-, y, -, e⟩ | ⟨-, -, -, -, e⟩ := s.feedByte_cases b <;> rw [e]
  · exact .inl ⟨hs, _, rfl⟩
  · exact .inl ⟨hs, _, rfl⟩
  · exact .inl ⟨hs, _, rfl⟩
  · exact .inl ⟨(State.feedLogical_fault _ y).trans hs, State.feedLogical_answers _ y⟩
  · exact .inr rfl

/-- Settles O17: FEED's frame, with the frame's mode kept and the one result or the fault. -/
theorem feedLeavesTheRest : Obligations.FeedLeavesTheRest := by
  unfold Obligations.FeedLeavesTheRest
  intro b s t hexec
  obtain ⟨hs, -, rfl⟩ := execFeed_eq_next.1 hexec
  exact ⟨s.feedByte_params b, s.feedByte_mode b, s.feedByte_rx b, s.feedByte_tx b, s.feedByte_pending b,
    s.feedByte_receivedYet b, fun ha => State.feedByte_decFmode ha b, State.feedByte_answers hs b⟩

/-- While Idle FEED's only error is `NotStartByte` (43 R152). -/
theorem State.feedByte_idle_error {k : ErrorKind} (ha : s.decActive = false)
    (h : (s.feedByte b).results = s.results ++ [.error k]) : (s.feedByte b).decActive = false ∧ k = .notStartByte := by
  rw [State.feedByte_idle b ha] at h ⊢
  by_cases hb : b = s.params.fend
  · simp [State.feedIdle_of_fend (s := { s with fedYet := true }) hb] at h
  · rw [State.feedIdle_of_ne_fend (s := { s with fedYet := true }) hb] at h ⊢
    exact ⟨ha, by simpa using h.symm⟩

/-- While Receiving FEED's only error is `ChecksumMismatch`, where the frame ends (43 R160). -/
theorem State.feedByte_receiving_error {k : ErrorKind} (ha : s.decActive = true)
    (h : (s.feedByte b).results = s.results ++ [.error k]) :
    (s.feedByte b).decActive = false ∧ k = .checksumMismatch := by
  obtain e | ⟨y, e⟩ | ⟨y, e⟩ | e := State.feedByte_receiving_cases ha b <;> rw [e] at h ⊢
  · simp at h
  · simp at h
  · refine ⟨rfl, ?_⟩
    obtain ⟨P, hr⟩ | hr := State.completeFrame_results { s with
      fedYet := true, dec := ({ s.dec with esc := false } : FrameRec).consume s.decFmode y } <;> rw [hr] at h
    · simp at h
    · simpa using h.symm
  · simp at h

/-- A FEED that answers leaves the next FEED ready. -/
theorem State.feedByte_feedReady {r : Result} (hs : s.FeedReady) (h : (s.feedByte b).results = s.results ++ [r]) :
    (s.feedByte b).FeedReady := by
  obtain ⟨hf, -⟩ | e := State.feedByte_answers hs.1 b
  · exact ⟨hf, by simpa [State.feedBarred] using hs.2⟩
  · simp [e] at h

/-- Settles O18: an error leaves the decoder Idle and ready, and there the marker starts a frame. -/
theorem feedErrorsLeaveTheDecoderIdle : Obligations.FeedErrorsLeaveTheDecoderIdle := by
  unfold Obligations.FeedErrorsLeaveTheDecoderIdle
  intro b s t k hexec h
  obtain ⟨hf, hbarred, rfl⟩ := execFeed_eq_next.1 hexec
  have hkind : (s.feedByte b).decActive = false ∧
      ((k = .notStartByte ∧ s.decActive = false) ∨ (k = .checksumMismatch ∧ s.decActive = true)) := by
    obtain ha | ha := Bool.eq_false_or_eq_true s.decActive
    · obtain ⟨hidle, hk⟩ := State.feedByte_receiving_error ha h
      exact ⟨hidle, .inr ⟨hk, ha⟩⟩
    · obtain ⟨hidle, hk⟩ := State.feedByte_idle_error ha h
      exact ⟨hidle, .inl ⟨hk, ha⟩⟩
  obtain ⟨hidle, hk⟩ := hkind
  refine ⟨hidle, hk, _, exec_feed_of_ready _ (State.feedByte_feedReady ⟨hf, hbarred⟩ h), ?_⟩
  rw [State.feedByte_fend hidle]
  exact ⟨rfl, rfl, rfl⟩

end Sys2Proof.Machine
end

section
/-! FEED against RECEIVE (spec/43_incremental_decoder.md R164): from one record of a frame in progress, the bytes fed and the
same bytes read by RECEIVE's loop go through the same records and end the frame the same way. -/

namespace Sys2Proof.Machine

/-- What FEED answers for a finished record: the result of `COMPLETE()` (43 R160), as `receiveEnd` is RECEIVE's (44 R194). -/
def feedEnd (c : Params) (m : Bool) (T : FrameRec) : Result :=
  if verifyCk c m (T.packet m) then .complete (T.packet m) else .error .checksumMismatch

variable {c : Params} {m : Bool} {T : FrameRec}

theorem feedEnd_ne_incomplete : feedEnd c m T ≠ .incomplete := by
  unfold feedEnd
  split <;> simp

theorem receiveEnd_of_feedEnd_complete {P : Packet} (h : feedEnd c m T = .complete P) (k : Nat) :
    P = T.packet m ∧ receiveEnd c m k T = .okPacket P (byteCount c.byteCountKind k T.exp.toNat) := by
  unfold feedEnd at h
  split at h
  next hv =>
    obtain rfl := Result.complete.inj h
    exact ⟨rfl, if_pos hv⟩
  next => exact nomatch h

theorem receiveEnd_of_feedEnd_mismatch (h : feedEnd c m T = .error .checksumMismatch) (k : Nat) :
    receiveEnd c m k T = .error .checksumMismatch := by
  unfold feedEnd at h
  split at h
  next => exact nomatch h
  next hv => exact if_neg hv

/-- A frame in progress with enough reads left to end it: two for each logical byte of the longest frame still to come, less
the one already made where an escape is pending. -/
structure FrameRec.EndsWithin (T : FrameRec) (m : Bool) (fuel : Nat) : Prop where
  inProgress : T.InProgress m
  reads : 2 * (260 - T.cnt.toNat) ≤ fuel + T.esc.toNat

/-- The 518 reads of 44 R190 are enough for a frame just started. -/
theorem FrameRec.start_endsWithin (T : FrameRec) (m : Bool) : (T.start m).EndsWithin m maxLaterReads where
  inProgress := T.start_inProgress m
  reads := by simp [maxLaterReads]

theorem FrameRec.EndsWithin.fuel_pos {fuel : Nat} (h : T.EndsWithin m fuel) : ∃ fuel', fuel = fuel' + 1 := by
  obtain ⟨⟨⟨-, hlt, hle⟩, -⟩, hreads⟩ := h
  have hesc := T.esc.toNat_le
  exact Nat.exists_eq_add_one.2 (by omega)

/-- An escape marker takes one read and no position. -/
theorem FrameRec.EndsWithin.escape {fuel : Nat} (h : T.EndsWithin m (fuel + 1)) (he : T.esc = false) :
    ({ T with esc := true } : FrameRec).EndsWithin m fuel where
  inProgress := FrameRec.inProgress_esc h.inProgress true
  reads := by simpa [he] using h.reads

/-- A logical byte takes its position and, with the escape marker before it if there is one, at most two reads. -/
theorem FrameRec.EndsWithin.consume {fuel : Nat} (h : T.EndsWithin m (fuel + 1)) {x : Byte}
    (hf : (({ T with esc := false } : FrameRec).consume m x).finished = false) :
    (({ T with esc := false } : FrameRec).consume m x).EndsWithin m fuel where
  inProgress := by
    refine FrameRec.consume_inProgress (FrameRec.inProgress_esc h.inProgress false) x fun he => ?_
    simp [(FrameRec.consume_finished (FrameRec.inProgress_esc h.inProgress false) x).2 he] at hf
  reads := by
    have hreads := h.reads
    have hesc := T.esc.toNat_le
    rw [FrameRec.InProgress.consume_cnt_toNat (FrameRec.inProgress_esc h.inProgress false), FrameRec.consume_esc]
    simp only [Bool.toNat_false]
    omega

/-- The byte that finishes a frame leaves the expected total at the header's and the data's (10 R29 (d)). -/
theorem FrameRec.InProgress.finished_exp (h : T.InProgress m) {x : Byte} (hf : (T.consume m x).finished = true) :
    (T.consume m x).exp.toNat = headerTotal m + (T.consume m x).len.toNat := by
  have he : T.cnt.toNat + 1 = T.exp.toNat := (FrameRec.consume_finished h x).1 hf
  obtain ⟨hc, -⟩ := FrameRec.last_position h he
  obtain ⟨-, -, hexp, -⟩ := h
  rw [FrameRec.consume_checksum hc (by omega)]
  exact hexp hc

variable {s : State} {k fuel : Nat} {t : Timeout}

theorem State.midFrame_feedByte_of_bad {b : Byte} (he : T.esc = true) (hb : b ≠ s.params.tfend)
    (hb' : b ≠ s.params.tfesc) : (s.midFrame T k).feedByte b = (s.midFrame T k).enterBadEscape := by
  have hbad : escDec s.params T.esc b = (false, .bad) := by rw [he, escDec_true_bad s.params hb hb']
  rw [State.feedByte_active _ rfl, State.feedReceiving_of_bad hbad]
  rfl

/-- One byte, fed and read: both decoders go on with the same record, or end the frame with the same record, or fault. -/
theorem State.midFrame_feed_receive (hT : T.EndsWithin s.mode (fuel + 1)) (b : Byte) (j : Nat) {rx rx' : RxStream}
    (hread : rxRead t rx = (some b, rx')) :
    (∃ T', T'.EndsWithin s.mode fuel ∧ (s.midFrame T k).feedByte b = s.midFrame T' (k + 1) ∧
      receiveLoop s.params t s.mode (fuel + 1) j T rx = receiveLoop s.params t s.mode fuel (j + 1) T' rx') ∨
    (∃ T', T'.exp.toNat = headerTotal s.mode + T'.len.toNat ∧
      (s.midFrame T k).feedByte b = (s.midFrame T' k).completeFrame ∧
      receiveLoop s.params t s.mode (fuel + 1) j T rx = (.result (receiveEnd s.params s.mode (j + 1) T'), rx')) ∨
    ((s.midFrame T k).feedByte b = (s.midFrame T k).enterBadEscape ∧
      receiveLoop s.params t s.mode (fuel + 1) j T rx = (.badEscape, rx')) := by
  obtain ⟨he, rfl, hloop⟩ | ⟨x, hx, ⟨hf, hloop⟩ | ⟨hf, hloop⟩⟩ | ⟨he, hb, hb', hloop⟩ :=
    receiveLoop_some s.params t s.mode fuel j T rx hread
  · exact .inl ⟨_, hT.escape he, State.midFrame_feedByte_fesc he, hloop⟩
  · refine .inr (.inl ⟨_, (FrameRec.inProgress_esc hT.inProgress false).finished_exp hf, ?_, hloop⟩)
    exact (State.midFrame_feedByte_of_byte hx).trans (State.feedLogical_of_finished hf)
  · refine .inl ⟨_, hT.consume hf, ?_, hloop⟩
    rw [← State.midFrame_answer_incomplete]
    exact (State.midFrame_feedByte_of_byte hx).trans (State.feedLogical_of_not_finished hf)
  · exact .inr (.inr ⟨State.midFrame_feedByte_of_bad he hb hb', hloop⟩)

/-- Any bytes, fed and read, from one record of a frame in progress: the frame is still unfinished after all of them, or a
first part of them finished it, or the last of them faulted. -/
theorem State.midFrame_feeds_receive (hs : s.FeedReady) (hT : T.EndsWithin s.mode fuel) {W : List Byte} {u : State}
    (hrun : runOps (feeds W) (s.midFrame T k) = .next u) (rest : List (Option Byte)) (j n : Nat) :
    (∃ T' fuel', T'.EndsWithin s.mode fuel' ∧ u = s.midFrame T' (k + W.length) ∧
      receiveLoop s.params t s.mode fuel j T { answers := W.map some ++ rest, reads := n } =
        receiveLoop s.params t s.mode fuel' (j + W.length) T' { answers := rest, reads := n + W.length }) ∨
    (∃ V b V' T', W = V ++ b :: V' ∧ T'.exp.toNat = headerTotal s.mode + T'.len.toNat ∧
      runOps (feeds V') (s.midFrame T' (k + V.length)).completeFrame = .next u ∧
      receiveLoop s.params t s.mode fuel j T { answers := W.map some ++ rest, reads := n } =
        (.result (receiveEnd s.params s.mode (j + V.length + 1) T'),
          { answers := V'.map some ++ rest, reads := n + V.length + 1 })) ∨
    (∃ T' V b, W = V ++ [b] ∧ u = (s.midFrame T' (k + V.length)).enterBadEscape ∧
      receiveLoop s.params t s.mode fuel j T { answers := W.map some ++ rest, reads := n } =
        (.badEscape, { answers := rest, reads := n + W.length })) := by
  induction W generalizing T k fuel j n with
  | nil =>
    obtain rfl := Host.Outcome.next.inj hrun
    exact .inl ⟨T, fuel, hT, rfl, rfl⟩
  | cons b W ih =>
    obtain ⟨fuel, rfl⟩ := hT.fuel_pos
    rw [runOps_feeds_cons (State.midFrame_feedReady hs)] at hrun
    obtain ⟨T', hT', hfeed, hloop⟩ | ⟨T', hexp, hfeed, hloop⟩ | ⟨hfeed, hloop⟩ :=
      State.midFrame_feed_receive (k := k) hT b j (rxRead_cons t (some b) (W.map some ++ rest) n) <;> rw [hfeed] at hrun
    · have hadd : ∀ a l : Nat, a + 1 + l = a + (l + 1) := by omega
      have htail := ih hT' hrun (j + 1) (n + 1)
      simp only [hadd] at htail
      obtain ⟨T'', fuel', hT'', hu, hrec⟩ | ⟨V, b', V', T'', rfl, hexp, hu, hrec⟩ | ⟨T'', V, b', rfl, hu, hrec⟩ := htail
      · exact .inl ⟨T'', fuel', hT'', hu, hloop.trans hrec⟩
      · exact .inr (.inl ⟨b :: V, b', V', T'', rfl, hexp, hu, hloop.trans hrec⟩)
      · exact .inr (.inr ⟨T'', b :: V, b', rfl, hu, hloop.trans hrec⟩)
    · exact .inr (.inl ⟨[], b, W, T', rfl, hexp, hrun, hloop⟩)
    · obtain rfl : W = [] := List.map_eq_nil_iff.1 (runOps_of_fault hrun rfl)
      obtain rfl := Host.Outcome.next.inj hrun
      exact .inr (.inr ⟨T, [], b, rfl, rfl, hloop⟩)

/-! The results of a run of FEEDs -/

/-- Where two lists begin with repetitions of `a` and one continues the other, their first other elements coincide. -/
theorem replicate_append_singleton_prefix {α : Type} {a x y : α} (hx : x ≠ a) {i l : Nat}
    (h : List.replicate i a ++ [x] <+: List.replicate l a ++ [y]) : i = l ∧ x = y := by
  induction i generalizing l with
  | zero =>
    cases l with
    | zero => simpa using h
    | succ l => simp [List.replicate_succ, List.cons_prefix_cons, hx] at h
  | succ i ih =>
    cases l with
    | zero => simpa using h.length_le
    | succ l =>
      obtain ⟨hi, hy⟩ := ih (List.cons_prefix_cons.1 h).2
      exact ⟨congrArg Nat.succ hi, hy⟩

theorem runOps_results_prefix {ops : List Instr} {s u : State} (h : runOps ops s = .next u) : s.results <+: u.results := by
  induction ops generalizing s with
  | nil =>
    obtain rfl := Host.Outcome.next.inj h
    exact List.prefix_rfl
  | cons i ops ih =>
    rw [runOps] at h
    cases hi : exec i s with
    | next s' =>
      rw [hi] at h
      exact (exec_results_prefix hi).trans (ih h)
    | fault | refused => simp [hi] at h

/-- A run from an Idle decoder answers the same results whatever record the decoder holds (10 R28). -/
theorem runOps_of_idle_dec {ops : List Instr} {s u : State} (ha : s.decActive = false) (h : runOps ops s = .next u)
    (d : FrameRec) : ∃ u', runOps ops { s with dec := d } = .next u' ∧ u'.results = u.results := by
  have hsame := runOps_sameOutcome ops (State.sameButUnread_of_idle ha s.decFmode d)
  rw [h] at hsame
  generalize ho : runOps ops { s with dec := d } = o at hsame
  cases hsame with
  | next hu =>
    obtain ⟨f, d', rfl, -⟩ := hu
    exact ⟨_, rfl, rfl⟩

/-- A run of FEEDs from `s` to `u` has answered `Incomplete` `n` times and then `r`. -/
abbrev State.AnsweredLast (s u : State) (n : Nat) (r : Result) : Prop :=
  u.results = s.results ++ List.replicate n .incomplete ++ [r]

/-- The first answer other than `Incomplete` is the last one, if only the last one is not `Incomplete`. -/
theorem State.AnsweredLast.of_run {s u v : State} {ops : List Instr} {i n : Nat} {x r : Result}
    (h : s.AnsweredLast u n r) (hv : s.AnsweredLast v i x) (hx : x ≠ .incomplete) (hrun : runOps ops v = .next u) :
    i = n ∧ x = r := by
  have hprefix := runOps_results_prefix hrun
  rw [hv, h, List.append_assoc, List.append_assoc, List.prefix_append_right_inj] at hprefix
  exact replicate_append_singleton_prefix hx hprefix

theorem State.AnsweredLast.ne_replicate {s u : State} {n : Nat} {r : Result} (h : s.AnsweredLast u n r)
    (hr : r ≠ .incomplete) (i : Nat) : u.results ≠ s.results ++ List.replicate i .incomplete := by
  intro hi
  rw [h, List.append_assoc, List.append_cancel_left_eq] at hi
  exact hr (List.eq_of_mem_replicate (hi ▸ List.mem_append_right _ (List.mem_singleton_self r)))

/-! RECEIVE of the bytes fed -/

theorem receiveFrame_cons_fend (c : Params) (t : Timeout) (m : Bool) (answers : List (Option Byte)) (n : Nat) :
    receiveFrame c t m { answers := some c.fend :: answers, reads := n } =
      receiveLoop c t m maxLaterReads 1 (FrameRec.blank.start m) { answers := answers, reads := n + 1 } :=
  if_pos rfl

/-- Where FEED of some bytes after the marker ends a frame with the last of them, RECEIVE's loop ends there with the same
record. -/
theorem receiveLoop_of_feeds {s u : State} {T : FrameRec} {W : List Byte} {r : Result} {k l fuel : Nat}
    (hs : s.FeedReady) (hT : T.EndsWithin s.mode fuel) (hrun : runOps (feeds W) (s.midFrame T k) = .next u)
    (hl : l + 1 = k + W.length) (hu : s.AnsweredLast u l r) (hr : r ≠ .incomplete) (t : Timeout)
    (rest : List (Option Byte)) (j n : Nat) :
    ∃ T', r = feedEnd s.params s.mode T' ∧ T'.exp.toNat = headerTotal s.mode + T'.len.toNat ∧
      receiveLoop s.params t s.mode fuel j T { answers := W.map some ++ rest, reads := n } =
        (.result (receiveEnd s.params s.mode (j + W.length) T'), { answers := rest, reads := n + W.length }) := by
  obtain ⟨T', -, -, rfl, -⟩ | ⟨V, b, V', T', rfl, hexp, hrun', hloop⟩ | ⟨T', V, b, -, rfl, -⟩ :=
    State.midFrame_feeds_receive (t := t) hs hT hrun rest j n
  · exact absurd rfl (hu.ne_replicate hr _)
  · obtain ⟨hlen, rfl⟩ := hu.of_run State.midFrame_completeFrame_results feedEnd_ne_incomplete hrun'
    simp only [List.length_append, List.length_cons] at hl
    obtain rfl : V' = [] := List.length_eq_zero_iff.1 (by omega)
    rw [List.length_append]
    exact ⟨T', rfl, hexp, hloop⟩
  · exact absurd rfl (hu.ne_replicate hr _)

/-- Where FEED of some bytes from Idle ends a frame with the last of them, RECEIVE reads exactly these bytes and ends with the
same record, if the decoder holds the record that RECEIVE starts with. -/
theorem receiveFrame_of_feeds_blank {s u : State} {bytes : List Byte} {r : Result} (hs : s.FeedReady)
    (ha : s.decActive = false) (hd : s.dec = FrameRec.blank) (hrun : runOps (feeds bytes) s = .next u)
    (hu : s.AnsweredLast u (bytes.length - 1) r) (hr : r ≠ .incomplete) (hr' : r ≠ .error .notStartByte) (t : Timeout)
    (rest : List (Option Byte)) (n : Nat) :
    ∃ T, r = feedEnd s.params s.mode T ∧ T.exp.toNat = headerTotal s.mode + T.len.toNat ∧
      receiveFrame s.params t s.mode { answers := bytes.map some ++ rest, reads := n } =
        (.result (receiveEnd s.params s.mode bytes.length T), { answers := rest, reads := n + bytes.length }) := by
  cases bytes with
  | nil =>
    obtain rfl := Host.Outcome.next.inj hrun
    exact absurd (List.append_nil _).symm (hu.ne_replicate hr 0)
  | cons b W =>
    rw [runOps_feeds_cons hs] at hrun
    obtain ⟨-, -, hreject⟩ | ⟨-, rfl, -⟩ | ⟨ha', -⟩ | ⟨ha', -⟩ | ⟨ha', -⟩ := s.feedByte_cases b
    · rw [hreject] at hrun
      have hfirst : s.AnsweredLast (({ s with fedYet := true } : State).answer (.error .notStartByte)) 0
          (.error .notStartByte) := by simp [State.AnsweredLast]
      obtain ⟨-, rfl⟩ := hu.of_run hfirst (by simp) hrun
      exact absurd rfl hr'
    · rw [State.feedByte_fend ha, hd] at hrun
      rw [List.map_cons, List.cons_append, receiveFrame_cons_fend, List.length_cons, ← Nat.add_assoc, Nat.add_right_comm n,
        Nat.add_comm W.length]
      exact receiveLoop_of_feeds hs (FrameRec.blank.start_endsWithin s.mode) hrun (Nat.add_comm _ _) hu hr t rest 1 (n + 1)
    · simp [ha] at ha'
    · simp [ha] at ha'
    · simp [ha] at ha'

/-- The same whatever the decoder holds: an Idle decoder's record reaches no result (10 R28). -/
theorem receiveFrame_of_feeds {s u : State} {bytes : List Byte} {r : Result} (hs : s.FeedReady)
    (ha : s.decActive = false) (hrun : runOps (feeds bytes) s = .next u) (hu : s.AnsweredLast u (bytes.length - 1) r)
    (hr : r ≠ .incomplete) (hr' : r ≠ .error .notStartByte) (t : Timeout) (rest : List (Option Byte)) (n : Nat) :
    ∃ T, r = feedEnd s.params s.mode T ∧ T.exp.toNat = headerTotal s.mode + T.len.toNat ∧
      receiveFrame s.params t s.mode { answers := bytes.map some ++ rest, reads := n } =
        (.result (receiveEnd s.params s.mode bytes.length T), { answers := rest, reads := n + bytes.length }) := by
  obtain ⟨u', hrun', hresults⟩ := runOps_of_idle_dec ha hrun FrameRec.blank
  exact receiveFrame_of_feeds_blank (s := { s with dec := FrameRec.blank }) hs ha rfl hrun' (hresults.trans hu) hr hr' t
    rest n

/-- RECEIVE in a state with other answers fixed on RX. -/
theorem exec_receive_of_receiveFrame {s : State} (hs : s.ReceiveReady) {t : Timeout} {r : Result} {rx rx' : RxStream}
    (h : receiveFrame s.params t s.mode rx = (.result r, rx')) :
    exec (.receive t) { s with rx := rx } =
      .next { s with rx := rx', receivedYet := true, results := s.results ++ [r] } := by
  rw [exec_receive_of_ready t (by exact hs), State.receivePacket_eq]
  simp only [h]
  rfl

/-- Settles O41: the frame that FEED ends with the last byte RECEIVE ends there too, with the same record, so with the same
packet or the same mismatch, and the count is that of the bytes or of the record's expected total. -/
theorem receiveAgreesWithFeed : Obligations.ReceiveAgreesWithFeed := by
  unfold Obligations.ReceiveAgreesWithFeed
  intro bytes rest t s u hs hs' ha hrun
  refine ⟨fun P hu => ?_, fun hu => ?_⟩
  · obtain ⟨T, hend, hexp, hframe⟩ :=
      receiveFrame_of_feeds hs ha hrun hu (by simp) (by simp) t rest s.rx.reads
    obtain ⟨rfl, hreceive⟩ := receiveEnd_of_feedEnd_complete hend.symm bytes.length
    rw [hreceive, hexp] at hframe
    exact ⟨_, exec_receive_of_receiveFrame hs' hframe, rfl, hs.1, rfl⟩
  · obtain ⟨T, hend, -, hframe⟩ :=
      receiveFrame_of_feeds hs ha hrun hu (by simp) (by simp) t rest s.rx.reads
    rw [receiveEnd_of_feedEnd_mismatch hend.symm] at hframe
    exact ⟨_, exec_receive_of_receiveFrame hs' hframe, rfl, hs.1, rfl⟩

end Sys2Proof.Machine
end

section
/-! RECEIVE of the encoder's frame (spec/42_encoder.md R135, spec/44_blocking_decoder.md R190 to R195): RECEIVE ends with the
packet that FEED completes. -/

namespace Sys2Proof.Machine

/-- RECEIVE over the wire frame of a packet the encoder accepts reads exactly that frame and ends with the packet, its address
0 in mode off (44 R194), and its byte count (44 R195). No state is needed: any Idle decoder, as the one after reset, shows what
FEED makes of the frame. -/
theorem receiveFrame_wireFrame {m : Bool} {P : PacketRecord} (hP : P.wellFormed m = true) (c : Params) (t : Timeout)
    (rest : List (Option Byte)) (n : Nat) :
    receiveFrame c t m { answers := (wireFrame c m P).map some ++ rest, reads := n } =
      (.result (.okPacket (exposedPacket m P (computeCk c m P))
        (byteCount c.byteCountKind (wireFrame c m P).length (headerTotal m + P.n.toNat))),
        { answers := rest, reads := n + (wireFrame c m P).length }) := by
  have hready : ({ State.resetWith c with mode := m } : State).FeedReady := ⟨rfl, rfl⟩
  obtain ⟨u, hrun, -, hu⟩ := runOps_feeds_wireFrame hready rfl hP
  obtain ⟨T, hend, hexp, hframe⟩ := receiveFrame_of_feeds hready rfl hrun hu (by simp) (by simp) t rest n
  obtain ⟨hpacket, hreceive⟩ := receiveEnd_of_feedEnd_complete hend.symm (wireFrame c m P).length
  have hlen : T.len = P.n := (congrArg Packet.n hpacket).symm
  rw [hexp, hlen] at hreceive
  exact hreceive ▸ hframe

/-- Settles O42: RECEIVE's loop ends with the packet FEED completes, and its count is that of the bytes or of the record's
expected total. -/
theorem encodedFrameIsReceived : Obligations.EncodedFrameIsReceived := by
  unfold Obligations.EncodedFrameIsReceived
  rintro P t s frame rest hs hlen haddr rfl hrx
  have hframe := receiveFrame_wireFrame (PacketRecord.wellFormed_iff.2 ⟨hlen, haddr⟩) s.params t rest s.rx.reads
  rw [← hrx, headerTotal_eq_ite] at hframe
  exact exec_receive_of_receiveFrame hs hframe

end Sys2Proof.Machine
end

section
/-! RECEIVE (spec/44_blocking_decoder.md R190 to R196): how it ends and after how many reads, the first byte, what it leaves
alone, and the bytes after which FEED is still inside a frame or has faulted. -/

namespace Sys2Proof.Machine

/-! The end of the loop -/

/-- How RECEIVE may end in mode `m`: with one of its results, a packet being well-formed and verified, or in the fault (44 R190,
R194). -/
def RxEnd.Expected (c : Params) (m : Bool) : RxEnd → Prop
  | .result r => r = .error .readFailed ∨ r = .error .notStartByte ∨ r = .error .checksumMismatch ∨
      ∃ P k, r = .okPacket P k ∧ P.wellFormed = true ∧ verifyCk c m P = true
  | .badEscape => True

variable {c : Params} {m : Bool} {T : FrameRec} {t : Timeout} {fuel : Nat}

theorem RxEnd.expected_readFailed : (RxEnd.result (.error .readFailed)).Expected c m := Or.inl rfl

theorem RxEnd.expected_notStartByte : (RxEnd.result (.error .notStartByte)).Expected c m := Or.inr (Or.inl rfl)

/-- The end of a frame is expected: `receiveEnd` returns only a packet it has verified. -/
theorem receiveEnd_expected (hP : (T.packet m).wellFormed = true) (k : Nat) :
    (RxEnd.result (receiveEnd c m k T)).Expected c m := by
  by_cases hv : verifyCk c m (T.packet m) = true
  · exact Or.inr (.inr (.inr ⟨_, _, if_pos hv, hP, hv⟩))
  · exact Or.inr (.inr (.inl (if_neg hv)))

/-- One turn of the loop makes one read, and by its answer the loop ends as expected or goes on with a frame that the reads left
can end. Which of them, and with what, does not depend on the bound on the reads. -/
theorem receiveLoop_turn (hT : T.EndsWithin m (fuel + 1)) (t : Timeout) (k : Nat) (rx : RxStream) :
    ∃ rx', rx'.reads = rx.reads + 1 ∧
      ((∃ e : RxEnd, e.Expected c m ∧ ∀ n, receiveLoop c t m (n + 1) k T rx = (e, rx')) ∨
        ∃ T', T'.EndsWithin m fuel ∧ ∀ n, receiveLoop c t m (n + 1) k T rx = receiveLoop c t m n (k + 1) T' rx') := by
  rcases hread : rxRead t rx with ⟨a, rx'⟩
  refine ⟨rx', by rw [← rxRead_reads t rx, hread], ?_⟩
  cases a with
  | none => exact .inl ⟨_, RxEnd.expected_readFailed, fun n => receiveLoop_none c t m n k T rx hread⟩
  | some b =>
    obtain ⟨he, -, hesc⟩ | ⟨x, hesc⟩ | ⟨-, -, -, hesc⟩ := escDec_cases c T.esc b
    · exact .inr ⟨_, hT.escape he, fun n => by simp [receiveLoop, hread, hesc]⟩
    · cases hf : (({ T with esc := false } : FrameRec).consume m x).finished with
      | true =>
        have hP := FrameRec.packet_wellFormed_of_finished (FrameRec.inProgress_esc hT.inProgress false) hf
        exact .inl ⟨_, receiveEnd_expected hP (k + 1), fun n => by simp [receiveLoop, hread, hesc, hf]⟩
      | false => exact .inr ⟨_, hT.consume hf, fun n => by simp [receiveLoop, hread, hesc, hf]⟩
    · exact .inl ⟨.badEscape, trivial, fun n => by simp [receiveLoop, hread, hesc]⟩

/-- A frame that the reads left can end is ended as expected, by at least one of these reads and by no more than these, and any
larger bound gives the same. -/
theorem receiveLoop_ends (hT : T.EndsWithin m fuel) (t : Timeout) (k : Nat) (rx : RxStream) :
    ∃ (e : RxEnd) (rx' : RxStream), e.Expected c m ∧ rx.reads + 1 ≤ rx'.reads ∧ rx'.reads ≤ rx.reads + fuel ∧
      ∀ n, fuel ≤ n → receiveLoop c t m n k T rx = (e, rx') := by
  induction fuel generalizing T k rx with
  | zero => exact absurd hT.fuel_pos (by simp)
  | succ fuel ih =>
    obtain ⟨rx', hreads, ⟨e, he, hloop⟩ | ⟨T', hT', hloop⟩⟩ := receiveLoop_turn (c := c) hT t k rx
    · refine ⟨e, rx', he, by omega, by omega, fun n hn => ?_⟩
      obtain ⟨n, rfl⟩ := Nat.exists_eq_add_one.2 (Nat.lt_of_lt_of_le fuel.succ_pos hn)
      exact hloop n
    · obtain ⟨e, rx'', he, hlo, hhi, hrest⟩ := ih hT' (k + 1) rx'
      refine ⟨e, rx'', he, by omega, by omega, fun n hn => ?_⟩
      obtain ⟨n, rfl⟩ := Nat.exists_eq_add_one.2 (Nat.lt_of_lt_of_le fuel.succ_pos hn)
      rw [hloop, hrest n (by omega)]

/-- Settles O46: the frame just started ends within 518 reads, and with any larger bound it ends the same way. -/
theorem receiveBoundNeverCuts : Obligations.ReceiveBoundNeverCuts := by
  unfold Obligations.ReceiveBoundNeverCuts
  intro c t m rx fuel hfuel
  obtain ⟨e, rx', -, -, -, hloop⟩ := receiveLoop_ends (c := c) (FrameRec.blank.start_endsWithin m) t 1 rx
  rw [hloop fuel hfuel, hloop maxLaterReads le_rfl]

/-! The first byte -/

theorem receiveFrame_of_timeout {rx rx' : RxStream} (h : rxRead t rx = (none, rx')) :
    receiveFrame c t m rx = (.result (.error .readFailed), rx') := by
  rw [receiveFrame, h]

theorem receiveFrame_of_ne_fend {rx rx' : RxStream} {b : Byte} (h : rxRead t rx = (some b, rx')) (hb : b ≠ c.fend) :
    receiveFrame c t m rx = (.result (.error .notStartByte), rx') := by
  rw [receiveFrame, h]
  exact if_neg hb

theorem receiveFrame_of_fend {rx rx' : RxStream} (h : rxRead t rx = (some c.fend, rx')) :
    receiveFrame c t m rx = receiveLoop c t m maxLaterReads 1 (FrameRec.blank.start m) rx' := by
  rw [receiveFrame, h]
  exact if_pos rfl

/-- RECEIVE ends as expected, after one read and at most 518 more. -/
theorem receiveFrame_ends (c : Params) (t : Timeout) (m : Bool) (rx : RxStream) :
    ∃ (e : RxEnd) (rx' : RxStream), e.Expected c m ∧ rx.reads + 1 ≤ rx'.reads ∧ rx'.reads ≤ rx.reads + 519 ∧
      receiveFrame c t m rx = (e, rx') := by
  rcases hread : rxRead t rx with ⟨a, rx₁⟩
  have hreads : rx₁.reads = rx.reads + 1 := by rw [← rxRead_reads t rx, hread]
  cases a with
  | none => exact ⟨_, _, RxEnd.expected_readFailed, by omega, by omega, receiveFrame_of_timeout hread⟩
  | some b =>
    by_cases hb : b = c.fend
    · obtain ⟨e, rx', he, hlo, hhi, hloop⟩ :=
        receiveLoop_ends (c := c) (FrameRec.blank.start_endsWithin m) t 1 rx₁
      have hbound : maxLaterReads = 518 := rfl
      exact ⟨e, rx', he, by omega, by omega, (receiveFrame_of_fend (hb ▸ hread)).trans (hloop _ le_rfl)⟩
    · exact ⟨_, _, RxEnd.expected_notStartByte, by omega, by omega, receiveFrame_of_ne_fend hread hb⟩

/-! RECEIVE as an operation -/

variable {s : State}

/-- RECEIVE's next state, by the end and the stream that its frame leaves. -/
theorem exec_receive_of_end (hs : s.ReceiveReady) {e : RxEnd} {rx rx' : RxStream}
    (h : receiveFrame s.params t s.mode rx = (e, rx')) :
    exec (.receive t) { s with rx := rx } = .next (({ s with rx := rx', receivedYet := true } : State).endReceive e) := by
  rw [exec_receive_of_ready t (by exact hs), State.receivePacket_eq]
  simp only [h]

@[simp] theorem State.endReceive_rx (s : State) (e : RxEnd) : (s.endReceive e).rx = s.rx := by cases e <;> rfl

/-- Settles O38: a first byte that is no marker, or none at all, is the end of the frame. -/
theorem receiveFirstByte : Obligations.ReceiveFirstByte := by
  unfold Obligations.ReceiveFirstByte
  exact fun t s rx' hs => ⟨fun hread => exec_receive_of_receiveFrame hs (receiveFrame_of_timeout hread),
    fun b hread hb => exec_receive_of_receiveFrame hs (receiveFrame_of_ne_fend hread hb)⟩

/-- Settles O39: the frame ends as expected, and the end is answered or enters the faulted state. -/
theorem receiveAlwaysEnds : Obligations.ReceiveAlwaysEnds := by
  unfold Obligations.ReceiveAlwaysEnds
  intro t s hs
  obtain ⟨e, rx', he, -, -, hframe⟩ := receiveFrame_ends s.params t s.mode s.rx
  refine ⟨_, exec_receive_of_end hs hframe, ?_⟩
  cases e with
  | result r => exact .inr ⟨hs.1, r, rfl, he⟩
  | badEscape => exact .inl ⟨rfl, rfl⟩

/-- Settles O45: the reads of the frame are all the reads RECEIVE makes. -/
theorem receiveReadsAtMost519 : Obligations.ReceiveReadsAtMost519 := by
  unfold Obligations.ReceiveReadsAtMost519
  intro t s u hexec
  obtain ⟨-, -, rfl⟩ := execReceive_eq_next.1 hexec
  obtain ⟨e, rx', -, hlo, hhi, hframe⟩ := receiveFrame_ends s.params t s.mode s.rx
  rw [State.receivePacket_eq, State.endReceive_rx, hframe]
  exact ⟨hlo, hhi⟩

/-- Settles O40: RECEIVE writes RX, `FAULT` and the results only, and commutes with any change of the decoder's elements. -/
theorem receiveLeavesTheDecoder : Obligations.ReceiveLeavesTheDecoder := by
  unfold Obligations.ReceiveLeavesTheDecoder
  intro t s u hexec
  obtain ⟨hs, hbarred, rfl⟩ := execReceive_eq_next.1 hexec
  refine ⟨s.receivePacket_frame t, fun a f d => ?_⟩
  rw [exec_receive_of_ready t (by exact ⟨hs, hbarred⟩)]
  exact congrArg _ (leavesDecoder_receivePacket t s a f d)

end Sys2Proof.Machine
end

section
/-! RECEIVE of bytes that FEED has not ended a frame with (spec/44_blocking_decoder.md R190, R192): cut short, or faulted by
their last. -/

namespace Sys2Proof.Machine

variable {s u : State} {T : FrameRec} {W : List Byte} {t : Timeout} {k l fuel : Nat}

/-- A run of FEEDs from `s` to `u` has answered `Incomplete` `n` times and nothing else. -/
abbrev State.AnsweredIncomplete (s u : State) (n : Nat) : Prop :=
  u.results = s.results ++ List.replicate n .incomplete

theorem State.AnsweredIncomplete.unique {i n : Nat} (h : s.AnsweredIncomplete u n)
    (hi : s.AnsweredIncomplete u i) : n = i := by
  rw [State.AnsweredIncomplete, h, List.append_cancel_left_eq] at hi
  simpa using congrArg List.length hi

/-- Where all answers are `Incomplete`, no earlier state of the run has answered otherwise. -/
theorem State.AnsweredIncomplete.incomplete_of_run {v : State} {ops : List Instr} {i n : Nat} {x : Result}
    (h : s.AnsweredIncomplete u n) (hrun : runOps ops v = .next u) (hv : s.AnsweredLast v i x) : x = .incomplete := by
  have hprefix := runOps_results_prefix hrun
  rw [hv, h, List.append_assoc, List.prefix_append_right_inj] at hprefix
  exact List.eq_of_mem_replicate (hprefix.subset (List.mem_append_right _ (List.mem_singleton_self x)))

/-- The loop over bytes that FEED has answered `Incomplete` for, all of them or all but the last: it stands inside the same
frame, or has faulted with the last of them. -/
theorem receiveLoop_of_feeds_incomplete (hs : s.FeedReady) (hT : T.EndsWithin s.mode fuel)
    (hrun : runOps (feeds W) (s.midFrame T k) = .next u) (hu : s.AnsweredIncomplete u l) (t : Timeout)
    (rest : List (Option Byte)) (j n : Nat) :
    (l = k + W.length ∧ ∃ T' fuel',
      receiveLoop s.params t s.mode fuel j T { answers := W.map some ++ rest, reads := n } =
        receiveLoop s.params t s.mode (fuel' + 1) (j + W.length) T' { answers := rest, reads := n + W.length }) ∨
    (l + 1 = k + W.length ∧
      receiveLoop s.params t s.mode fuel j T { answers := W.map some ++ rest, reads := n } =
        (.badEscape, { answers := rest, reads := n + W.length })) := by
  obtain ⟨T', fuel', hT', rfl, hloop⟩ | ⟨V, b, V', T', -, -, hrun', -⟩ | ⟨T', V, b, rfl, rfl, hloop⟩ :=
    State.midFrame_feeds_receive (t := t) hs hT hrun rest j n
  · obtain ⟨fuel', rfl⟩ := hT'.fuel_pos
    exact .inl ⟨hu.unique rfl, T', fuel', hloop⟩
  · exact absurd (hu.incomplete_of_run hrun' State.midFrame_completeFrame_results) feedEnd_ne_incomplete
  · refine .inr ⟨?_, hloop⟩
    rw [hu.unique rfl, List.length_append]
    rfl

/-- Bytes fed to an Idle decoder that are answered by `Incomplete` only begin with the marker, and what follows is fed inside
its frame; the frame's record may have started from any (10 R28). -/
theorem runOps_feeds_cons_of_incomplete {b : Byte} (hs : s.FeedReady) (ha : s.decActive = false)
    (hrun : runOps (feeds (b :: W)) s = .next u) (hu : s.AnsweredIncomplete u l) (d : FrameRec) :
    b = s.params.fend ∧ ∃ u', runOps (feeds W) (s.midFrame (d.start s.mode) 1) = .next u' ∧ s.AnsweredIncomplete u' l := by
  have hb : b = s.params.fend := by
    by_contra hb
    rw [runOps_feeds_cons hs, State.feedByte_idle b ha, State.feedIdle_of_ne_fend (s := { s with fedYet := true }) hb] at hrun
    have hfirst : s.AnsweredLast (({ s with fedYet := true } : State).answer (.error .notStartByte)) 0
        (.error .notStartByte) := by simp [State.AnsweredLast]
    exact absurd (hu.incomplete_of_run hrun hfirst) (by simp)
  subst hb
  obtain ⟨u', hrun', hresults⟩ := runOps_of_idle_dec ha hrun d
  rw [runOps_feeds_cons (by exact hs)] at hrun'
  exact ⟨rfl, u', (State.feedByte_fend (s := { s with dec := d }) ha) ▸ hrun', hresults.trans hu⟩

/-- RECEIVE over bytes that FEED has answered `Incomplete` for, all of them or all but the last: it awaits the next byte in the
loop, or has faulted with the last of them. -/
theorem receiveFrame_of_feeds_incomplete {b : Byte} (hs : s.FeedReady) (ha : s.decActive = false)
    (hrun : runOps (feeds (b :: W)) s = .next u) (hu : s.AnsweredIncomplete u l) (t : Timeout)
    (rest : List (Option Byte)) (n : Nat) :
    (l = (b :: W).length ∧ ∃ T fuel,
      receiveFrame s.params t s.mode { answers := (b :: W).map some ++ rest, reads := n } =
        receiveLoop s.params t s.mode (fuel + 1) (b :: W).length T { answers := rest, reads := n + (b :: W).length }) ∨
    (l + 1 = (b :: W).length ∧
      receiveFrame s.params t s.mode { answers := (b :: W).map some ++ rest, reads := n } =
        (.badEscape, { answers := rest, reads := n + (b :: W).length })) := by
  obtain ⟨rfl, u', hrun', hu'⟩ := runOps_feeds_cons_of_incomplete hs ha hrun hu FrameRec.blank
  rw [List.map_cons, List.cons_append, receiveFrame_cons_fend, List.length_cons, ← Nat.add_assoc, Nat.add_right_comm n,
    Nat.add_comm W.length]
  exact receiveLoop_of_feeds_incomplete hs (FrameRec.blank.start_endsWithin s.mode) hrun' hu' t rest 1 (n + 1)

/-- Settles O43: with every byte answered `Incomplete` the loop awaits another, and the read that returns nothing ends it. -/
theorem receiveTimeoutLosesTheFrame : Obligations.ReceiveTimeoutLosesTheFrame := by
  unfold Obligations.ReceiveTimeoutLosesTheFrame
  intro bytes rest t s u hs hs' ha hrun hu
  cases bytes with
  | nil => exact exec_receive_of_receiveFrame hs' (receiveFrame_of_timeout (rxRead_cons t none rest s.rx.reads))
  | cons b W =>
    obtain ⟨-, T, fuel, hframe⟩ | ⟨hl, -⟩ := receiveFrame_of_feeds_incomplete hs ha hrun hu t (none :: rest) s.rx.reads
    · exact exec_receive_of_receiveFrame hs' (hframe.trans (receiveLoop_none _ _ _ _ _ _ _ (rxRead_cons t none rest _)))
    · exact absurd hl (Nat.succ_ne_self _)

/-- Settles O44: the byte that FEED answered nothing for has faulted the loop too. -/
theorem receiveFaultsWhereFeedFaults : Obligations.ReceiveFaultsWhereFeedFaults := by
  unfold Obligations.ReceiveFaultsWhereFeedFaults
  intro bytes rest t s u hs hs' ha hrun hfault hu
  cases bytes with
  | nil =>
    obtain rfl := Host.Outcome.next.inj hrun
    simp [hs.1] at hfault
  | cons b W =>
    obtain ⟨hl, -⟩ | ⟨-, hframe⟩ := receiveFrame_of_feeds_incomplete hs ha hrun hu t rest s.rx.reads
    · exact absurd hl.symm (Nat.succ_ne_self _)
    · exact exec_receive_of_end hs' hframe

end Sys2Proof.Machine
end

section
/-! The mode flag (spec/45_mode.md R210 to R212): SET_MODE, GET_MODE, and the mode of a frame in progress, which a SET_MODE
does not reach. -/

namespace Sys2Proof.Machine

/-! SET_MODE and GET_MODE -/

/-- Settles O49: the word is the operation's encoding, and behind the gate SET_MODE writes `MODE` and answers `Ok`. -/
theorem setModeWritesTheMode : Obligations.SetModeWritesTheMode := by
  unfold Obligations.SetModeWritesTheMode
  exact fun m s => ⟨decode_encode (.setMode m), fun hf => exec_of_fault hf (.setMode m),
    fun hf => State.ifLive_of_live hf⟩

/-- Settles O50: the word is the operation's encoding, and behind the gate GET_MODE answers `MODE`. -/
theorem getModeReadsTheMode : Obligations.GetModeReadsTheMode := by
  unfold Obligations.GetModeReadsTheMode
  exact ⟨decode_encode .getMode, fun s => ⟨fun hf => exec_of_fault hf .getMode, fun hf => State.ifLive_of_live hf⟩⟩

/-! Writing `MODE` before or after a byte of a frame in progress: the frame reads `DEC_FMODE` (43 R150, R160) -/

theorem State.feedLogical_writeMode (s : State) (m : Bool) (x : Byte) :
    (s.writeMode m).feedLogical x = (s.feedLogical x).writeMode m := by
  cases hf : (s.dec.consume s.decFmode x).finished with
  | true =>
    rw [State.feedLogical_of_finished hf, State.feedLogical_of_finished (s := s.writeMode m) hf]
    rfl
  | false =>
    rw [State.feedLogical_of_not_finished hf, State.feedLogical_of_not_finished (s := s.writeMode m) hf]
    rfl

theorem State.feedReceiving_writeMode (s : State) (m : Bool) (b : Byte) :
    (s.writeMode m).feedReceiving b = (s.feedReceiving b).writeMode m := by
  obtain ⟨-, -, e⟩ | ⟨x, e⟩ | ⟨-, -, -, e⟩ := escDec_cases s.params s.dec.esc b
  · rw [State.feedReceiving_of_nothing e, State.feedReceiving_of_nothing (s := s.writeMode m) e]
    rfl
  · rw [State.feedReceiving_of_byte e, State.feedReceiving_of_byte (s := s.writeMode m) e]
    exact State.feedLogical_writeMode { s with dec := { s.dec with esc := false } } m x
  · rw [State.feedReceiving_of_bad e, State.feedReceiving_of_bad (s := s.writeMode m) e]
    rfl

/-- Only the FEED that starts a frame reads `MODE` (43 R152, 45 R211). -/
theorem State.feedByte_writeMode {s : State} (ha : s.decActive = true) (m : Bool) (b : Byte) :
    (s.writeMode m).feedByte b = (s.feedByte b).writeMode m := by
  rw [State.feedByte_active b ha, State.feedByte_active (s := s.writeMode m) b ha]
  exact State.feedReceiving_writeMode { s with fedYet := true } m b

/-- Settles O25: neither gate of FEED reads `MODE`, and while Receiving the byte itself commutes with writing it. -/
theorem modeChangeInsideFrameIsDeferred : Obligations.ModeChangeInsideFrameIsDeferred := by
  unfold Obligations.ModeChangeInsideFrameIsDeferred
  intro b m s t ha hexec
  obtain ⟨hlive, hbarred, rfl⟩ := execFeed_eq_next.1 hexec
  exact (exec_feed_of_ready (s := s.writeMode m) b ⟨hlive, hbarred⟩).trans
    (congrArg _ (State.feedByte_writeMode ha m b))

end Sys2Proof.Machine
end

section
/-! The results (spec/60_exceptions.md R220): the code of each. -/

namespace Sys2Proof.Machine

/-- Settles O59: `Result.code` and `ErrorKind.code` are tables with a row for each constructor, and so is this proof: the
seven forms of `Ok`, the two successes of FEED, the eight errors. -/
theorem resultCodes : Obligations.ResultCodes := by
  unfold Obligations.ResultCodes
  exact ⟨fun _ => rfl, fun _ _ => rfl, rfl, fun _ => rfl, fun _ _ => rfl, fun _ => rfl, fun _ => rfl,
    rfl, fun _ => rfl,
    rfl, rfl, rfl, rfl, rfl, rfl, rfl, rfl⟩

end Sys2Proof.Machine
end

section
/-! Reset, waiting, and the one owner of a transport (spec/70_reset_and_hazards.md R250, R252, R253, R262). -/

namespace Sys2Proof.Machine

variable {s t : State}

/-! Reset and waiting -/

/-- Reset of a fresh instance changes nothing (70 R250). -/
theorem State.resetInstance_resetWith (p : Params) : (State.resetWith p).resetInstance = State.resetWith p := rfl

/-- Settles O58: reset's own fields, one by one, and an instance of the open parameters. -/
theorem resetValues : Obligations.ResetValues := by
  unfold Obligations.ResetValues
  exact ⟨fun _ => ⟨rfl, rfl, rfl, rfl, rfl, rfl, rfl, rfl, rfl, rfl⟩,
    (State.resetInstance_resetWith Config.params).symm, rfl, rfl⟩

theorem State.nextRequest_of_nil (h : s.pending = []) : s.nextRequest = none := by
  simp [State.nextRequest, h]

/-- Settles O7: the `FAULT` gate is open, and the step takes its waiting arm. -/
theorem stepWaitsForTheHost : Obligations.StepWaitsForTheHost := by
  unfold Obligations.StepWaitsForTheHost
  intro s hf hp
  rw [step, State.ifLive_of_live hf, State.nextRequest_of_nil hp]

/-! The refusal (70 R262 (b)) -/

theorem State.feedBarred_of_received (hshared : s.params.feedSharesRx = true) (hr : s.receivedYet = true) :
    s.feedBarred = true := by
  simp [State.feedBarred, hshared, hr]

theorem State.receiveBarred_of_fed (hshared : s.params.feedSharesRx = true) (hfed : s.fedYet = true) :
    s.receiveBarred = true := by
  simp [State.receiveBarred, hshared, hfed]

theorem exec_feed_of_barred (hf : s.fault = false) (h : s.feedBarred = true) (b : Byte) :
    exec (.feed b) s = .refused .sharedTransport :=
  (State.ifLive_of_live hf).trans (if_pos h)

theorem exec_receive_of_barred (hf : s.fault = false) (h : s.receiveBarred = true) (τ : Timeout) :
    exec (.receive τ) s = .refused .sharedTransport :=
  (State.ifLive_of_live hf).trans (if_pos h)

/-- Settles O47: on a shared transport each of the two notes bars the other operation. -/
theorem sharedTransportIsRefused : Obligations.SharedTransportIsRefused := by
  unfold Obligations.SharedTransportIsRefused
  exact fun s hf hshared => ⟨fun hr => exec_feed_of_barred hf (State.feedBarred_of_received hshared hr),
    fun hfed => exec_receive_of_barred hf (State.receiveBarred_of_fed hshared hfed)⟩

/-! The one owner: FEED and RECEIVE alone write a note, and the refusal keeps each from being the second -/

@[simp] theorem State.receivePacket_params (s : State) (τ : Timeout) : (s.receivePacket τ).params = s.params := by
  rw [State.receivePacket_frame]

@[simp] theorem State.receivePacket_fedYet (s : State) (τ : Timeout) : (s.receivePacket τ).fedYet = s.fedYet := by
  rw [State.receivePacket_frame]

theorem State.feedByte_oneOwner (h : s.feedBarred = false) (b : Byte) : (s.feedByte b).OneOwner := by
  rintro ⟨hshared, -, hr⟩
  rw [State.feedByte_params] at hshared
  rw [State.feedByte_receivedYet] at hr
  simp [State.feedBarred_of_received hshared hr] at h

theorem State.receivePacket_oneOwner (h : s.receiveBarred = false) (τ : Timeout) : (s.receivePacket τ).OneOwner := by
  rintro ⟨hshared, hfed, -⟩
  rw [State.receivePacket_params] at hshared
  rw [State.receivePacket_fedYet] at hfed
  simp [State.receiveBarred_of_fed hshared hfed] at h

theorem exec_oneOwner {i : Instr} (h : s.OneOwner) (hexec : exec i s = .next t) : t.OneOwner := by
  obtain ⟨b, -, hs, rfl⟩ | ⟨P, -, e⟩ | ⟨τ, -, hs, rfl⟩ | ⟨m, -, rfl⟩ | ⟨-, rfl⟩ | ⟨-, r, rfl⟩ := exec_cases hexec
  · exact State.feedByte_oneOwner hs.2 b
  · rw [e]
    exact h
  · exact State.receivePacket_oneOwner hs.2 τ
  · exact h
  · exact h
  · exact h

theorem step_oneOwner (h : s.OneOwner) (hstep : step s = .next t) : t.OneOwner := by
  obtain ⟨-, ⟨-, rfl⟩ | ⟨r, rest, -, ⟨e, -, rfl⟩ | ⟨i, -, hexec⟩⟩⟩ := step_eq_next hstep
  · exact h
  · exact h
  · exact exec_oneOwner (s := { s with pending := rest }) h hexec

/-- Settles O48: a fresh instance has neither note, and the step keeps the invariant. -/
theorem transportKeepsOneOwner : Obligations.TransportKeepsOneOwner := by
  unfold Obligations.TransportKeepsOneOwner
  exact ⟨by simp [State.reset, State.resetWith], fun _ _ => step_oneOwner⟩

end Sys2Proof.Machine
end
